-- ==== Sys2Proof/Word.lean ====
section
/-! DEFINITION. The two word widths of the block (00_scope.md R9): the input byte and the 16-bit lengths. -/

namespace Sys2Proof

/-- One input item, one buffer cell, one checksum register: 8 bits (R9). -/
abbrev Byte := BitVec 8

/-- The width of `n_len`, `u_len`, `u_cnt` and of an event's `len` field: 16 bits (R26, R33, R34, R80). -/
abbrev Half := BitVec 16

end Sys2Proof
end

