-- ==== Sys2Proof/Machine/Codes.lean ====
section
/-! DEFINITION. The byte values the rules test, the hex-digit decode and the state codes
(30_encoding.md R70, R71, R76; 40_checksum.md R100). -/

namespace Sys2Proof.Machine

/-- `'$'` (R70, PRESUMED from the ASCII table: log entry 13). -/
abbrev dollar : Byte := 0x24#8

/-- `'*'` (R70, PRESUMED from the ASCII table: log entry 13). -/
abbrev star : Byte := 0x2A#8

/-- The first UBX sync byte, class `SYNC1` (R71). -/
abbrev sync1 : Byte := 0xB5#8

/-- The second UBX sync byte, class `SYNC2B` (R71). -/
abbrev sync2 : Byte := 0x62#8

/-- The byte written after the last NMEA payload byte (20_memory.md R55). -/
abbrev sentinel : Byte := 0x00#8

/-- `hexval` of 40_checksum.md R100; `none` is `invalid`. -/
def hexval (b : Byte) : Option (BitVec 4) :=
  if 0x30#8 ≤ b ∧ b ≤ 0x39#8 then some ((b - 0x30#8).setWidth 4)
  else if 0x41#8 ≤ b ∧ b ≤ 0x46#8 then some ((b - 0x41#8 + 10#8).setWidth 4)
  else if 0x61#8 ≤ b ∧ b ≤ 0x66#8 then some ((b - 0x61#8 + 10#8).setWidth 4)
  else none

/-- The byte class `HEX` (R71). -/
def isHex (b : Byte) : Bool := (hexval b).isSome

/-- `d_state` codes (R76). -/
abbrev DState.idle : BitVec 2 := 0#2
abbrev DState.inNmea : BitVec 2 := 1#2
abbrev DState.inUbx : BitVec 2 := 2#2
/-- The reserved code of `d_state` (R23, R76). -/
abbrev DState.reserved : BitVec 2 := 3#2

/-- `n_state` codes (R76). -/
abbrev NState.idle : BitVec 2 := 0#2
abbrev NState.collect : BitVec 2 := 1#2
abbrev NState.cksumHi : BitVec 2 := 2#2
abbrev NState.cksumLo : BitVec 2 := 3#2

/-- `u_state` codes (R76); codes 9 to 15 are reserved. -/
abbrev UState.idle : BitVec 4 := 0#4
abbrev UState.sync2 : BitVec 4 := 1#4
abbrev UState.cls : BitVec 4 := 2#4
abbrev UState.id : BitVec 4 := 3#4
abbrev UState.lenLo : BitVec 4 := 4#4
abbrev UState.lenHi : BitVec 4 := 5#4
abbrev UState.payload : BitVec 4 := 6#4
abbrev UState.cksumA : BitVec 4 := 7#4
abbrev UState.cksumB : BitVec 4 := 8#4

end Sys2Proof.Machine
end

