-- ==== Sys2Proof/Syntax.lean ====
section
/-! DEFINITION. The transitions of the block, one constructor per row of spec/opcode_table.json. -/

namespace Sys2Proof

/-- The three units whose transitions the opcode table lists (30_encoding.md R79). -/
inductive FramingUnit where
  | nmea
  | ubx
  | dsp
  deriving DecidableEq, Repr

/-- A transition with the input byte it consumes. A row that admits one byte value only has no operand; the
rows of reserved states that cover several codes carry the free low bits of the code. -/
inductive Instr where
  /-- R120 -/
  | nIdleStart
  /-- R121 -/
  | nIdleIgnore (b : Byte)
  /-- R122 -/
  | nCollectEnd
  /-- R123 -/
  | nCollectAppend (b : Byte)
  /-- R124 -/
  | nCollectOverflow (b : Byte)
  /-- R125 -/
  | nHiDigit (b : Byte)
  /-- R126 -/
  | nHiBad (b : Byte)
  /-- R127 -/
  | nLoMatch (b : Byte)
  /-- R128 -/
  | nLoMismatch (b : Byte)
  /-- R129 -/
  | nLoBad (b : Byte)
  /-- R150 -/
  | uIdleSync1
  /-- R151 -/
  | uIdleIgnore (b : Byte)
  /-- R152 -/
  | uSync2Ok
  /-- R153 -/
  | uSync2Fail (b : Byte)
  /-- R154 -/
  | uClass (b : Byte)
  /-- R155 -/
  | uId (b : Byte)
  /-- R156 -/
  | uLenLo (b : Byte)
  /-- R157 -/
  | uLenHiZero (b : Byte)
  /-- R158 -/
  | uLenHiOverflow (b : Byte)
  /-- R159 -/
  | uLenHiPayload (b : Byte)
  /-- R160 -/
  | uPayloadByte (b : Byte)
  /-- R161 -/
  | uPayloadLast (b : Byte)
  /-- R162 -/
  | uCksumA (b : Byte)
  /-- R163 -/
  | uCksumBMatch (b : Byte)
  /-- R164 -/
  | uCksumBMismatch (b : Byte)
  /-- R165, `PAYLOAD` with `u_cnt = 0` -/
  | uPayloadZeroCount (b : Byte)
  /-- R165, state code 9 -/
  | uReservedState9 (b : Byte)
  /-- R165, state codes `101x`; `x` is the operand -/
  | uReservedState10To11 (x : BitVec 1) (b : Byte)
  /-- R165, state codes `11xx`; `xx` is the operand -/
  | uReservedState12To15 (x : BitVec 2) (b : Byte)
  /-- R190 -/
  | dIdleNmea
  /-- R191 -/
  | dIdleUbx
  /-- R192 -/
  | dIdleDiscard (b : Byte)
  /-- R193 -/
  | dFwdNmea (b : Byte)
  /-- R194 -/
  | dFwdUbx (b : Byte)
  /-- R195 -/
  | dReservedState (b : Byte)
  deriving DecidableEq, Repr

end Sys2Proof
end

