-- ==== Sys2Proof/WellFormed.lean ====
section
/-! DEFINITION. When a transition is well formed: its byte lies in the byte set of its row
(30_encoding.md §8, `byte_set` of spec/opcode_table.json). -/

namespace Sys2Proof

open Sys2Proof.Machine

/-- The byte of the transition is in its row's byte set. A row whose byte set is `0x00..0xFF`, or whose byte
is fixed, is always well formed. -/
def Instr.wf : Instr → Bool
  | .nIdleStart => true
  | .nIdleIgnore b => b != dollar
  | .nCollectEnd => true
  | .nCollectAppend b => b != star
  | .nCollectOverflow b => b != star
  | .nHiDigit b => isHex b
  | .nHiBad b => !isHex b
  | .nLoMatch b => isHex b
  | .nLoMismatch b => isHex b
  | .nLoBad b => !isHex b
  | .uIdleSync1 => true
  | .uIdleIgnore b => b != sync1
  | .uSync2Ok => true
  | .uSync2Fail b => b != sync2
  | .uClass _ => true
  | .uId _ => true
  | .uLenLo _ => true
  | .uLenHiZero _ => true
  | .uLenHiOverflow _ => true
  | .uLenHiPayload _ => true
  | .uPayloadByte _ => true
  | .uPayloadLast _ => true
  | .uCksumA _ => true
  | .uCksumBMatch _ => true
  | .uCksumBMismatch _ => true
  | .uPayloadZeroCount _ => true
  | .uReservedState9 _ => true
  | .uReservedState10To11 _ _ => true
  | .uReservedState12To15 _ _ => true
  | .dIdleNmea => true
  | .dIdleUbx => true
  | .dIdleDiscard b => b != dollar && b != sync1
  | .dFwdNmea _ => true
  | .dFwdUbx _ => true
  | .dReservedState _ => true

end Sys2Proof
end

