-- ==== Sys2Proof/Decode.lean ====
section
/-! DEFINITION. Transition words, their decoder and encoder, and the opcode table of the spec.

The spec selects a transition by a selector word, state code ++ byte, and for some rows a condition on registers
(30_encoding.md R79). Selector words of different units share their numbers, and rows that differ by their
condition share their selector. The model's 16-bit transition word therefore holds the selector in its low
bits and tells apart what the selector does not (DESIGN CHOICE, log entries 2 and 3):

* bits 7..0: the input byte;
* bits 13..8: the state place. 0..3 is a dispatcher state, 4..15 the UBX state of that code, 16..19 the NMEA
  states 0..3, 32..35 the UBX states 0..3; every other place is no state;
* bits 15..14: the condition place, the position of the row among the rows that share its selector, in the
  order of 30_encoding.md §8; 0 for a row without a condition. -/

namespace Sys2Proof

open Sys2Proof.Machine

/-- Why a 16-bit word is no transition word. -/
inductive DecodeError where
  /-- The state place names no state of any unit. -/
  | noSuchState
  /-- No row of that state has that condition place. -/
  | noSuchCondition
  deriving DecidableEq, Repr

/-- Condition place, state place and byte, put together. -/
def transitionWord (c : BitVec 2) (st : BitVec 6) (b : Byte) : BitVec 16 := c ++ st ++ b

/-- Bits 7..0 of a transition word. -/
def wordByte (w : BitVec 16) : Byte := w.extractLsb' 0 8

/-- Bits 13..8 of a transition word. -/
def wordState (w : BitVec 16) : BitVec 6 := w.extractLsb' 8 6

/-- Bits 15..14 of a transition word. -/
def wordCond (w : BitVec 16) : BitVec 2 := w.extractLsb' 14 2

/-- A row without a condition: its condition place is 0. -/
def oneRow (c : BitVec 2) (i : Instr) : Except DecodeError Instr :=
  if c = 0#2 then .ok i else .error .noSuchCondition

/-- Two rows that share a selector. -/
def twoRows (c : BitVec 2) (i j : Instr) : Except DecodeError Instr :=
  if c = 0#2 then .ok i else if c = 1#2 then .ok j else .error .noSuchCondition

/-- Three rows that share a selector. -/
def threeRows (c : BitVec 2) (i j k : Instr) : Except DecodeError Instr :=
  if c = 0#2 then .ok i else if c = 1#2 then .ok j else if c = 2#2 then .ok k
  else .error .noSuchCondition

/-- The transition a transition word stands for (30_encoding.md R79 and §8). -/
def decode (w : BitVec 16) : Except DecodeError Instr :=
  let b := wordByte w
  let c := wordCond w
  match (wordState w).toNat with
  | 0 =>
    if b = dollar then oneRow c .dIdleNmea
    else if b = sync1 then oneRow c .dIdleUbx
    else oneRow c (.dIdleDiscard b)
  | 1 => oneRow c (.dFwdNmea b)
  | 2 => oneRow c (.dFwdUbx b)
  | 3 => oneRow c (.dReservedState b)
  | 4 => oneRow c (.uLenLo b)
  | 5 => threeRows c (.uLenHiZero b) (.uLenHiOverflow b) (.uLenHiPayload b)
  | 6 => threeRows c (.uPayloadByte b) (.uPayloadLast b) (.uPayloadZeroCount b)
  | 7 => oneRow c (.uCksumA b)
  | 8 => twoRows c (.uCksumBMatch b) (.uCksumBMismatch b)
  | 9 => oneRow c (.uReservedState9 b)
  | 10 => oneRow c (.uReservedState10To11 0#1 b)
  | 11 => oneRow c (.uReservedState10To11 1#1 b)
  | 12 => oneRow c (.uReservedState12To15 0#2 b)
  | 13 => oneRow c (.uReservedState12To15 1#2 b)
  | 14 => oneRow c (.uReservedState12To15 2#2 b)
  | 15 => oneRow c (.uReservedState12To15 3#2 b)
  | 16 => if b = dollar then oneRow c .nIdleStart else oneRow c (.nIdleIgnore b)
  | 17 => if b = star then oneRow c .nCollectEnd else twoRows c (.nCollectAppend b) (.nCollectOverflow b)
  | 18 => if isHex b then oneRow c (.nHiDigit b) else oneRow c (.nHiBad b)
  | 19 => if isHex b then twoRows c (.nLoMatch b) (.nLoMismatch b) else oneRow c (.nLoBad b)
  | 32 => if b = sync1 then oneRow c .uIdleSync1 else oneRow c (.uIdleIgnore b)
  | 33 => if b = sync2 then oneRow c .uSync2Ok else oneRow c (.uSync2Fail b)
  | 34 => oneRow c (.uClass b)
  | 35 => oneRow c (.uId b)
  | _ => .error .noSuchState

/-- The unit whose row a transition is (30_encoding.md §8). -/
def Instr.unit : Instr → FramingUnit
  | .nIdleStart | .nIdleIgnore _ | .nCollectEnd | .nCollectAppend _ | .nCollectOverflow _
  | .nHiDigit _ | .nHiBad _ | .nLoMatch _ | .nLoMismatch _ | .nLoBad _ => .nmea
  | .uIdleSync1 | .uIdleIgnore _ | .uSync2Ok | .uSync2Fail _ | .uClass _ | .uId _ | .uLenLo _
  | .uLenHiZero _ | .uLenHiOverflow _ | .uLenHiPayload _ | .uPayloadByte _ | .uPayloadLast _
  | .uCksumA _ | .uCksumBMatch _ | .uCksumBMismatch _ | .uPayloadZeroCount _
  | .uReservedState9 _ | .uReservedState10To11 _ _ | .uReservedState12To15 _ _ => .ubx
  | .dIdleNmea | .dIdleUbx | .dIdleDiscard _ | .dFwdNmea _ | .dFwdUbx _ | .dReservedState _ => .dsp

/-- The input byte a transition consumes. -/
def Instr.byte : Instr → Byte
  | .nIdleStart | .dIdleNmea => dollar
  | .nCollectEnd => star
  | .uIdleSync1 | .dIdleUbx => sync1
  | .uSync2Ok => sync2
  | .nIdleIgnore b | .nCollectAppend b | .nCollectOverflow b | .nHiDigit b | .nHiBad b
  | .nLoMatch b | .nLoMismatch b | .nLoBad b | .uIdleIgnore b | .uSync2Fail b | .uClass b | .uId b
  | .uLenLo b | .uLenHiZero b | .uLenHiOverflow b | .uLenHiPayload b | .uPayloadByte b
  | .uPayloadLast b | .uCksumA b | .uCksumBMatch b | .uCksumBMismatch b | .uPayloadZeroCount b
  | .uReservedState9 b | .uReservedState10To11 _ b | .uReservedState12To15 _ b | .dIdleDiscard b
  | .dFwdNmea b | .dFwdUbx b | .dReservedState b => b

/-- The code, in the unit's state register, of the state a transition starts from (R76, 30_encoding.md §8). -/
def Instr.stateCode : Instr → BitVec 4
  | .nIdleStart | .nIdleIgnore _ => NState.idle.setWidth 4
  | .nCollectEnd | .nCollectAppend _ | .nCollectOverflow _ => NState.collect.setWidth 4
  | .nHiDigit _ | .nHiBad _ => NState.cksumHi.setWidth 4
  | .nLoMatch _ | .nLoMismatch _ | .nLoBad _ => NState.cksumLo.setWidth 4
  | .uIdleSync1 | .uIdleIgnore _ => UState.idle
  | .uSync2Ok | .uSync2Fail _ => UState.sync2
  | .uClass _ => UState.cls
  | .uId _ => UState.id
  | .uLenLo _ => UState.lenLo
  | .uLenHiZero _ | .uLenHiOverflow _ | .uLenHiPayload _ => UState.lenHi
  | .uPayloadByte _ | .uPayloadLast _ | .uPayloadZeroCount _ => UState.payload
  | .uCksumA _ => UState.cksumA
  | .uCksumBMatch _ | .uCksumBMismatch _ => UState.cksumB
  | .uReservedState9 _ => 9#4
  | .uReservedState10To11 x _ => (5#3 ++ x : BitVec 4)
  | .uReservedState12To15 x _ => (3#2 ++ x : BitVec 4)
  | .dIdleNmea | .dIdleUbx | .dIdleDiscard _ => DState.idle.setWidth 4
  | .dFwdNmea _ => DState.inNmea.setWidth 4
  | .dFwdUbx _ => DState.inUbx.setWidth 4
  | .dReservedState _ => DState.reserved.setWidth 4

/-- The condition place of a transition: its position among the rows that share its selector. -/
def Instr.condPlace : Instr → BitVec 2
  | .nCollectOverflow _ | .nLoMismatch _ | .uLenHiOverflow _ | .uPayloadLast _
  | .uCksumBMismatch _ => 1#2
  | .uLenHiPayload _ | .uPayloadZeroCount _ => 2#2
  | .nIdleStart | .nIdleIgnore _ | .nCollectEnd | .nCollectAppend _ | .nHiDigit _ | .nHiBad _
  | .nLoMatch _ | .nLoBad _ | .uIdleSync1 | .uIdleIgnore _ | .uSync2Ok | .uSync2Fail _ | .uClass _
  | .uId _ | .uLenLo _ | .uLenHiZero _ | .uPayloadByte _ | .uCksumA _ | .uCksumBMatch _
  | .uReservedState9 _ | .uReservedState10To11 _ _ | .uReservedState12To15 _ _ | .dIdleNmea
  | .dIdleUbx | .dIdleDiscard _ | .dFwdNmea _ | .dFwdUbx _ | .dReservedState _ => 0#2

/-- Where a unit's state of a given code stands in a transition word. -/
def statePlace : FramingUnit → BitVec 4 → BitVec 6
  | .dsp, c => c.setWidth 6
  | .nmea, c => 16#6 + c.setWidth 6
  | .ubx, c => if c.toNat < 4 then 32#6 + c.setWidth 6 else c.setWidth 6

/-- The word of a transition. -/
def encode (i : Instr) : BitVec 16 :=
  transitionWord i.condPlace (statePlace i.unit i.stateCode) i.byte

/-- The spec's own selector word of a transition, zero-extended to 12 bits: `USEL[11:0]`, or `NSEL[9:0]` or
`DSEL[9:0]` below two zero bits (R79). -/
def Instr.selector (i : Instr) : BitVec 12 := i.stateCode ++ i.byte

/-- The fixed entry point of the host: the transition read from a table word of `nbits` bits (log entry 3). -/
def decodeTableWord (nbits w : Nat) : Option Instr :=
  match decode (BitVec.ofNat 16 (w % 2 ^ nbits)) with
  | .ok i => some i
  | .error _ => none

/-- One row of spec/opcode_table.json: `match` and `mask` over the unit's selector word, the byte set as
inclusive ranges, and the condition place when the row has a condition (R79). -/
structure Row where
  mnemonic : String
  unit : FramingUnit
  pattern : BitVec 12
  mask : BitVec 12
  bytes : List (Nat × Nat)
  cond : Option (BitVec 2)
  deriving DecidableEq, Repr

/-- The byte class `HEX` as ranges (R71). -/
def hexRanges : List (Nat × Nat) := [(0x30, 0x39), (0x41, 0x46), (0x61, 0x66)]

/-- The complement of `HEX` as ranges (R126). -/
def nonHexRanges : List (Nat × Nat) := [(0x00, 0x2F), (0x3A, 0x40), (0x47, 0x60), (0x67, 0xFF)]

/-- The byte class `ANY` (R71). -/
def anyRange : List (Nat × Nat) := [(0x00, 0xFF)]

/-- The rows of format `NMEA_SEL10`. -/
def nmeaRows : List Row :=
  [⟨"N_IDLE_START", .nmea, 0x024#12, 0x3FF#12, [(0x24, 0x24)], none⟩,
   ⟨"N_IDLE_IGNORE", .nmea, 0x000#12, 0x300#12, [(0x00, 0x23), (0x25, 0xFF)], none⟩,
   ⟨"N_COLLECT_END", .nmea, 0x12A#12, 0x3FF#12, [(0x2A, 0x2A)], none⟩,
   ⟨"N_COLLECT_APPEND", .nmea, 0x100#12, 0x300#12, [(0x00, 0x29), (0x2B, 0xFF)], some 0#2⟩,
   ⟨"N_COLLECT_OVERFLOW", .nmea, 0x100#12, 0x300#12, [(0x00, 0x29), (0x2B, 0xFF)], some 1#2⟩,
   ⟨"N_HI_DIGIT", .nmea, 0x200#12, 0x300#12, hexRanges, none⟩,
   ⟨"N_HI_BAD", .nmea, 0x200#12, 0x300#12, nonHexRanges, none⟩,
   ⟨"N_LO_MATCH", .nmea, 0x300#12, 0x300#12, hexRanges, some 0#2⟩,
   ⟨"N_LO_MISMATCH", .nmea, 0x300#12, 0x300#12, hexRanges, some 1#2⟩,
   ⟨"N_LO_BAD", .nmea, 0x300#12, 0x300#12, nonHexRanges, none⟩]

/-- The first half of the rows of format `UBX_SEL12`. -/
def ubxHeaderRows : List Row :=
  [⟨"U_IDLE_SYNC1", .ubx, 0x0B5#12, 0xFFF#12, [(0xB5, 0xB5)], none⟩,
   ⟨"U_IDLE_IGNORE", .ubx, 0x000#12, 0xF00#12, [(0x00, 0xB4), (0xB6, 0xFF)], none⟩,
   ⟨"U_SYNC2_OK", .ubx, 0x162#12, 0xFFF#12, [(0x62, 0x62)], none⟩,
   ⟨"U_SYNC2_FAIL", .ubx, 0x100#12, 0xF00#12, [(0x00, 0x61), (0x63, 0xFF)], none⟩,
   ⟨"U_CLASS", .ubx, 0x200#12, 0xF00#12, anyRange, none⟩,
   ⟨"U_ID", .ubx, 0x300#12, 0xF00#12, anyRange, none⟩,
   ⟨"U_LEN_LO", .ubx, 0x400#12, 0xF00#12, anyRange, none⟩,
   ⟨"U_LEN_HI_ZERO", .ubx, 0x500#12, 0xF00#12, anyRange, some 0#2⟩,
   ⟨"U_LEN_HI_OVERFLOW", .ubx, 0x500#12, 0xF00#12, anyRange, some 1#2⟩,
   ⟨"U_LEN_HI_PAYLOAD", .ubx, 0x500#12, 0xF00#12, anyRange, some 2#2⟩]

/-- The second half of the rows of format `UBX_SEL12`. -/
def ubxBodyRows : List Row :=
  [⟨"U_PAYLOAD_BYTE", .ubx, 0x600#12, 0xF00#12, anyRange, some 0#2⟩,
   ⟨"U_PAYLOAD_LAST", .ubx, 0x600#12, 0xF00#12, anyRange, some 1#2⟩,
   ⟨"U_CKSUM_A", .ubx, 0x700#12, 0xF00#12, anyRange, none⟩,
   ⟨"U_CKSUM_B_MATCH", .ubx, 0x800#12, 0xF00#12, anyRange, some 0#2⟩,
   ⟨"U_CKSUM_B_MISMATCH", .ubx, 0x800#12, 0xF00#12, anyRange, some 1#2⟩,
   ⟨"U_PAYLOAD_ZERO_COUNT", .ubx, 0x600#12, 0xF00#12, anyRange, some 2#2⟩,
   ⟨"U_RESERVED_STATE_9", .ubx, 0x900#12, 0xF00#12, anyRange, none⟩,
   ⟨"U_RESERVED_STATE_10_11", .ubx, 0xA00#12, 0xE00#12, anyRange, none⟩,
   ⟨"U_RESERVED_STATE_12_15", .ubx, 0xC00#12, 0xC00#12, anyRange, none⟩]

/-- The rows of format `DSP_SEL10`. -/
def dispatcherRows : List Row :=
  [⟨"D_IDLE_NMEA", .dsp, 0x024#12, 0x3FF#12, [(0x24, 0x24)], none⟩,
   ⟨"D_IDLE_UBX", .dsp, 0x0B5#12, 0x3FF#12, [(0xB5, 0xB5)], none⟩,
   ⟨"D_IDLE_DISCARD", .dsp, 0x000#12, 0x300#12, [(0x00, 0x23), (0x25, 0xB4), (0xB6, 0xFF)], none⟩,
   ⟨"D_FWD_NMEA", .dsp, 0x100#12, 0x300#12, anyRange, none⟩,
   ⟨"D_FWD_UBX", .dsp, 0x200#12, 0x300#12, anyRange, none⟩,
   ⟨"D_RESERVED_STATE", .dsp, 0x300#12, 0x300#12, anyRange, none⟩]

/-- spec/opcode_table.json, row by row, in its order. -/
def opcodeTable : List Row := nmeaRows ++ ubxHeaderRows ++ ubxBodyRows ++ dispatcherRows

/-- A row's own test (R79): the unit, match under mask, the byte set, and the condition place if it has one. -/
def Row.admits (r : Row) (unit : FramingUnit) (sel : BitVec 12) (c : BitVec 2) : Bool :=
  r.unit == unit && (sel &&& r.mask) == r.pattern
    && r.bytes.any (fun p => decide (p.1 ≤ (sel.setWidth 8).toNat) && decide ((sel.setWidth 8).toNat ≤ p.2))
    && (match r.cond with
        | none => true
        | some k => k == c)

/-- The table's name of a transition's row. -/
def Instr.mnemonic : Instr → String
  | .nIdleStart => "N_IDLE_START"
  | .nIdleIgnore _ => "N_IDLE_IGNORE"
  | .nCollectEnd => "N_COLLECT_END"
  | .nCollectAppend _ => "N_COLLECT_APPEND"
  | .nCollectOverflow _ => "N_COLLECT_OVERFLOW"
  | .nHiDigit _ => "N_HI_DIGIT"
  | .nHiBad _ => "N_HI_BAD"
  | .nLoMatch _ => "N_LO_MATCH"
  | .nLoMismatch _ => "N_LO_MISMATCH"
  | .nLoBad _ => "N_LO_BAD"
  | .uIdleSync1 => "U_IDLE_SYNC1"
  | .uIdleIgnore _ => "U_IDLE_IGNORE"
  | .uSync2Ok => "U_SYNC2_OK"
  | .uSync2Fail _ => "U_SYNC2_FAIL"
  | .uClass _ => "U_CLASS"
  | .uId _ => "U_ID"
  | .uLenLo _ => "U_LEN_LO"
  | .uLenHiZero _ => "U_LEN_HI_ZERO"
  | .uLenHiOverflow _ => "U_LEN_HI_OVERFLOW"
  | .uLenHiPayload _ => "U_LEN_HI_PAYLOAD"
  | .uPayloadByte _ => "U_PAYLOAD_BYTE"
  | .uPayloadLast _ => "U_PAYLOAD_LAST"
  | .uCksumA _ => "U_CKSUM_A"
  | .uCksumBMatch _ => "U_CKSUM_B_MATCH"
  | .uCksumBMismatch _ => "U_CKSUM_B_MISMATCH"
  | .uPayloadZeroCount _ => "U_PAYLOAD_ZERO_COUNT"
  | .uReservedState9 _ => "U_RESERVED_STATE_9"
  | .uReservedState10To11 _ _ => "U_RESERVED_STATE_10_11"
  | .uReservedState12To15 _ _ => "U_RESERVED_STATE_12_15"
  | .dIdleNmea => "D_IDLE_NMEA"
  | .dIdleUbx => "D_IDLE_UBX"
  | .dIdleDiscard _ => "D_IDLE_DISCARD"
  | .dFwdNmea _ => "D_FWD_NMEA"
  | .dFwdUbx _ => "D_FWD_UBX"
  | .dReservedState _ => "D_RESERVED_STATE"

end Sys2Proof
end

