-- ==== Sys2Proof/Config.lean ====
section
/-! DEFINITION. The construction-time parameters of the block (00_scope.md R7, R8). -/

namespace Sys2Proof

/-- `Config = (NMEA_CAP, UBX_CAP)` (43_dispatcher.md R196): two natural numbers in `0 .. 65535` (R7, R8). -/
structure Config where
  /-- `NMEA_CAP`: the most payload bytes one NMEA frame may hold (R7). -/
  nmeaCap : Fin 65536
  /-- `UBX_CAP`: the largest declared UBX length that is accepted (R8). -/
  ubxCap : Fin 65536
  deriving DecidableEq, Repr, Inhabited

/-- The capacities the block was built with. The spec leaves them OPEN (R7, R8, D7), so this constant has no
body: nothing can be proved of it beyond its bounds (log entry 1). -/
opaque Config.built : Config

end Sys2Proof
end

