-- ==== Sys2Proof/Machine/State.lean ====
section
/-! DEFINITION. The state of the block as plain data, why a step can stop, and the state after reset
(10_state.md, 20_memory.md, 30_encoding.md R80 and R83, 70_reset_and_hazards.md R240 and R241). -/

namespace Sys2Proof.Machine

/-- The cells of a buffer that have been written since power-up, by strictly rising index; an index that is not
listed has no value (R241). -/
abbrev Memory := List Host.Cell

/-- The error kind of a `UbxError` event (30_encoding.md R81). -/
inductive ErrorKind where
  | bufferOverflow
  | badChecksum
  deriving DecidableEq, Repr

/-- The output of one step (30_encoding.md R80). A payload is the buffer slice after the step's writes; a cell
that no byte was ever written to reads as `none` in it (log entry 8). -/
inductive Event where
  /-- Code 0: no event. -/
  | none
  /-- Code 1. -/
  | nmeaFrame (len : Half) (payload : List (Option Byte))
  /-- Code 2. -/
  | nmeaChecksumError (len : Half) (payload : List (Option Byte))
  /-- Code 3. -/
  | nmeaOverflow (len : Half)
  /-- Code 4. -/
  | ubxFrame (cls id : Byte) (len : Half) (payload : List (Option Byte))
  /-- Code 5. -/
  | ubxError (cls id : Byte) (len : Half) (ekind : ErrorKind)
  deriving DecidableEq, Repr

/-- What the outside world presents to the ports of 30_encoding.md R83 (log entries 5 and 10). -/
inductive Stimulus where
  /-- One clock cycle with these values of `rst`, `in_valid` and `in_byte`. -/
  | cycle (rst inValid : Bool) (inByte : Byte)
  /-- The consumer reads `nb_data` at `nb_addr` at this step boundary (R58). -/
  | readNbuf (addr : Half)
  /-- The consumer reads `ub_data` at `ub_addr` at this step boundary (R58). -/
  | readUbuf (addr : Half)
  deriving DecidableEq, Repr

/-- The NMEA framer with its buffer (R24 to R27, R51). -/
structure NmeaFramer where
  /-- `n_state` (R24). -/
  state : BitVec 2
  /-- `n_ck` (R25). -/
  ck : Byte
  /-- `n_len` (R26). -/
  len : Half
  /-- `n_exp` (R27). -/
  exp : Byte
  /-- `NBUF` (R51). -/
  buf : Memory
  /-- The model's own: the indices of `NBUF` written since the last reset (R241, log entry 7). -/
  fresh : List Nat
  deriving DecidableEq, Repr

/-- The UBX framer with its buffer (R30 to R35, R52). -/
structure UbxFramer where
  /-- `u_state` (R30). -/
  state : BitVec 4
  /-- `u_ckA` (R31). -/
  ckA : Byte
  /-- `u_ckB` (R31). -/
  ckB : Byte
  /-- `u_class` (R32). -/
  cls : Byte
  /-- `u_id` (R32). -/
  id : Byte
  /-- `u_len` (R33). -/
  len : Half
  /-- `u_cnt` (R34). -/
  cnt : Half
  /-- `u_expA` (R35). -/
  expA : Byte
  /-- `UBUF` (R52). -/
  buf : Memory
  /-- The model's own: the indices of `UBUF` written since the last reset (R241, log entry 7). -/
  fresh : List Nat
  deriving DecidableEq, Repr

/-- The dispatcher owning one instance of each framer (R2, R36), the capacities it was built with, and the
ports. -/
structure State where
  /-- `NMEA_CAP` and `UBX_CAP`, which no step changes (R7, R8, log entry 1). -/
  cfg : Config
  /-- `d_state` (R23). -/
  dState : BitVec 2
  /-- The NMEA framer. -/
  nmea : NmeaFramer
  /-- The UBX framer. -/
  ubx : UbxFramer
  /-- The event outputs of the last cycle (R80, R83, log entry 9). -/
  evt : Event
  /-- The stimuli still to come; none left means cycles without a byte (log entry 5). -/
  inputs : List Stimulus
  /-- What the last consumer read of `nb_data` returned (R58, log entry 10). -/
  nbRead : Option Byte
  /-- What the last consumer read of `ub_data` returned (R58, log entry 10). -/
  ubRead : Option Byte
  deriving DecidableEq, Repr

/-- Why the model stops with a fault. -/
inductive Fault where
  /-- `ModelFault(ReservedState)`: raised by the rows of a reserved state, R165 and R195. The spec asks for it
  (30_encoding.md R76). Safe. -/
  | reservedState
  /-- Raised by a consumer read of a cell not written since reset, as R241 asks. Safe. -/
  | unwrittenCell
  /-- Raised by a buffer write outside the cells of R51 and R52. R62 says no transition makes one; only states
  no run reaches can (log entry 11). Safe. -/
  | noSuchCell
  deriving DecidableEq, Repr

/-- Why the model refuses. -/
inductive Refusal where
  /-- An instruction without a meaning; no arm of `exec` answers it. Safe. -/
  | notModelled (mnemonic : String)
  /-- Raised by every meaning asked to run in a state that does not select its row (R79, log entry 4). `step`
  never asks so. Safe. -/
  | rowNotSelected
  /-- Raised by a consumer read at an index outside the buffer, as R58 asks. Safe. -/
  | readOutOfRange
  /-- Raised by `step` for a selector word that decodes to nothing; no selector word does (log entry 14). Safe. -/
  | noSuchRow
  deriving DecidableEq, Repr

/-- How a step, a meaning or an operation answers. -/
abbrev Result := Host.Outcome State Fault Refusal

/-- The NMEA framer's registers at reset (R240); its cells are as `buf` says and none is written since. -/
def NmeaFramer.atReset (buf : Memory) : NmeaFramer where
  state := NState.idle
  ck := 0#8
  len := 0#16
  exp := 0#8
  buf := buf
  fresh := []

/-- The UBX framer's registers at reset (R240); its cells are as `buf` says and none is written since. -/
def UbxFramer.atReset (buf : Memory) : UbxFramer where
  state := UState.idle
  ckA := 0#8
  ckB := 0#8
  cls := 0#8
  id := 0#8
  len := 0#16
  cnt := 0#16
  expA := 0#8
  buf := buf
  fresh := []

/-- The block built with the capacities `cfg`, powered up and reset (R240, R241): every register at its reset
value, no cell with a value, no event, nothing presented at the inputs. -/
def State.resetWith (cfg : Config) : State where
  cfg := cfg
  dState := DState.idle
  nmea := NmeaFramer.atReset []
  ubx := UbxFramer.atReset []
  evt := .none
  inputs := []
  nbRead := Option.none
  ubRead := Option.none

/-- The machine right after reset, built with the capacities the spec leaves open (log entry 1). -/
def State.reset : State := State.resetWith Config.built

end Sys2Proof.Machine
end

