-- ==== Sys2Proof/Machine/Ops.lean ====
section
/-! DEFINITION. The named operations over the buffers, the registers and the ports (20_memory.md,
60_exceptions.md R217, 70_reset_and_hazards.md R240). -/

namespace Sys2Proof.Machine

/-! ### The capacities -/

/-- `NMEA_CAP` as a natural number. -/
def State.nmeaCap (s : State) : Nat := s.cfg.nmeaCap.val

/-- `UBX_CAP` as a natural number. -/
def State.ubxCap (s : State) : Nat := s.cfg.ubxCap.val

/-! ### Buffers -/

/-- The strictly rising form of a memory. -/
def Memory.wf : Memory → Bool
  | [] => true
  | [_] => true
  | (a, _) :: (b, y) :: m => decide (a < b) && Memory.wf ((b, y) :: m)

/-- `MemRead` of one cell: its value, or `none` when nothing was ever written to it (R57, R241). -/
def readCell : Memory → Nat → Option Byte
  | [], _ => none
  | (k, v) :: m, a => if k = a then some v else readCell m a

/-- `MemWrite` of one cell (R54), keeping the indices strictly rising. -/
def writeCell : Memory → Nat → Byte → Memory
  | [], a, v => [(a, v)]
  | (k, x) :: m, a, v =>
    if a < k then (a, v) :: (k, x) :: m
    else if a = k then (a, v) :: m
    else (k, x) :: writeCell m a v

/-- Adds an index to a strictly rising list of indices. -/
def markFresh : List Nat → Nat → List Nat
  | [], a => [a]
  | k :: l, a => if a < k then a :: k :: l else if a = k then k :: l else k :: markFresh l a

/-- Cells `0 .. n - 1` in order: a payload as an event refers to it (R59, R80). -/
def slice (m : Memory) (n : Nat) : List (Option Byte) := (List.range n).map (readCell m)

/-- A write of one `NBUF` cell. -/
def NmeaFramer.store (n : NmeaFramer) (a : Nat) (v : Byte) : NmeaFramer :=
  { n with buf := writeCell n.buf a v, fresh := markFresh n.fresh a }

/-- A write of one `UBUF` cell. -/
def UbxFramer.store (u : UbxFramer) (a : Nat) (v : Byte) : UbxFramer :=
  { u with buf := writeCell u.buf a v, fresh := markFresh u.fresh a }

/-! ### Updates of the state -/

/-- `emit E`; a transition without an event emits `Event.none` (R80). -/
def State.emit (s : State) (e : Event) : State := { s with evt := e }

/-- `d_state <- c`. -/
def State.gotoD (s : State) (c : BitVec 2) : State := { s with dState := c }

/-- Replaces the NMEA framer. -/
def State.setNmea (s : State) (n : NmeaFramer) : State := { s with nmea := n }

/-- Replaces the UBX framer. -/
def State.setUbx (s : State) (u : UbxFramer) : State := { s with ubx := u }

/-- Replaces the queue of stimuli. -/
def State.setInputs (s : State) (l : List Stimulus) : State := { s with inputs := l }

/-- The consumer's last read of `nb_data`. -/
def State.setNbRead (s : State) (v : Byte) : State := { s with nbRead := some v }

/-- The consumer's last read of `ub_data`. -/
def State.setUbRead (s : State) (v : Byte) : State := { s with ubRead := some v }

/-- Changes the next state of a result, if it is one. -/
def onNext (o : Result) (f : State → State) : Result :=
  match o with
  | .next s => .next (f s)
  | .fault e => .fault e
  | .refused e => .refused e

/-- The next state of a result, if it is one. -/
def nextOf (o : Result) : Option State :=
  match o with
  | .next s => some s
  | .fault _ => none
  | .refused _ => none

/-! ### Buffer writes with their range (R51, R52, R62) -/

/-- `MemWrite(NBUF, a, 1, v)`: indices `0 .. NMEA_CAP` exist (R51). -/
def storeNbuf (s : State) (a : Nat) (v : Byte) : Result :=
  if a ≤ s.nmeaCap then .next (s.setNmea (s.nmea.store a v)) else .fault .noSuchCell

/-- `MemWrite(UBUF, a, 1, v)`: indices `0 .. UBX_CAP - 1` exist (R52). -/
def storeUbuf (s : State) (a : Nat) (v : Byte) : Result :=
  if a < s.ubxCap then .next (s.setUbx (s.ubx.store a v)) else .fault .noSuchCell

/-! ### The abort, the block's analogue of taking an exception (60_exceptions.md R217) -/

/-- A framer abort of the NMEA framer: `goto IDLE`, the event the rule reports (none for a silent drop, R213),
every other register and every cell kept. There is no return operation (R218). -/
def abortNmea (s : State) (e : Event) : State :=
  (s.setNmea { s.nmea with state := NState.idle }).emit e

/-- A framer abort of the UBX framer, as `abortNmea`. -/
def abortUbx (s : State) (e : Event) : State :=
  (s.setUbx { s.ubx with state := UState.idle }).emit e

/-! ### Cycles without a byte -/

/-- A cycle with `rst = 1` (R240): registers to their reset values, no cell written, no event, the byte not
consumed. Afterwards no cell counts as written since reset (R241, log entry 7). -/
def applyReset (s : State) : State :=
  (((s.gotoD DState.idle).setNmea (NmeaFramer.atReset s.nmea.buf)).setUbx
    (UbxFramer.atReset s.ubx.buf)).emit .none

/-- A cycle with `rst = 0` and `in_valid = 0`: not a step, all state holds (R196, R226), and no event is
presented (R83). -/
def holdCycle (s : State) : State := s.emit .none

/-! ### The consumer's read ports (R58) -/

/-- A consumer read of `NBUF[a]`: refused outside `0 .. NMEA_CAP`, a fault on a cell not written since reset
(R241), else the cell's value and no other effect. -/
def readNbuf (s : State) (a : Nat) : Result :=
  if a ≤ s.nmeaCap then
    if a ∈ s.nmea.fresh then
      match readCell s.nmea.buf a with
      | some v => .next (s.setNbRead v)
      | none => .fault .unwrittenCell
    else .fault .unwrittenCell
  else .refused .readOutOfRange

/-- A consumer read of `UBUF[a]`: refused outside `0 .. UBX_CAP - 1`, else as `readNbuf`. -/
def readUbuf (s : State) (a : Nat) : Result :=
  if a < s.ubxCap then
    if a ∈ s.ubx.fresh then
      match readCell s.ubx.buf a with
      | some v => .next (s.setUbRead v)
      | none => .fault .unwrittenCell
    else .fault .unwrittenCell
  else .refused .readOutOfRange

end Sys2Proof.Machine
end

