-- ==== Sys2Proof/Machine/Flags.lean ====
section
/-! DEFINITION. The checksum units and the comparisons that select rows (40_checksum.md R101 to R106,
30_encoding.md §8). The block has no condition codes (10_state.md R22): these are its only computed
conditions. -/

namespace Sys2Proof.Machine

/-- One NMEA checksum update (R101). -/
def nckUpdate (c b : Byte) : Byte := c ^^^ b

/-- The NMEA checksum of a byte sequence (R102). -/
def nck (p : List Byte) : Byte := p.foldl nckUpdate 0#8

/-- One UBX checksum update; `ckB` adds the new `ckA` (R104). -/
def ubxUpdate (a b x : Byte) : Byte × Byte := (a + x, b + (a + x))

/-- The UBX checksum of a byte sequence (R105). -/
def uck (l : List Byte) : Byte × Byte := l.foldl (fun p x => ubxUpdate p.1 p.2 x) (0#8, 0#8)

/-- The accumulators of the UBX framer take in one byte (R104). -/
def UbxFramer.absorb (u : UbxFramer) (b : Byte) : UbxFramer :=
  { u with ckA := (ubxUpdate u.ckA u.ckB b).1, ckB := (ubxUpdate u.ckA u.ckB b).2 }

/-- `n_len < NMEA_CAP`, the room left for one more payload byte (R123). -/
def nHasRoom (s : State) : Bool := decide (s.nmea.len.toNat < s.nmeaCap)

/-- `n_exp + hexval(b) == n_ck` for a hex digit `b` (R77, R103, R127). -/
def nDigitsMatch (s : State) (b : Byte) : Bool :=
  match hexval b with
  | some v => s.nmea.exp + v.setWidth 8 == s.nmea.ck
  | none => false

/-- `u_expA == u_ckA && b == u_ckB` (R106). -/
def uSumsMatch (s : State) (b : Byte) : Bool := s.ubx.expA == s.ubx.ckA && b == s.ubx.ckB

end Sys2Proof.Machine
end

