-- ==== Sys2Proof/Machine/Operands.lean ====
section
/-! DEFINITION. Operand assembly and the selection of a row by state, byte and condition (30_encoding.md R77
to R79). -/

namespace Sys2Proof.Machine

/-- The assembled UBX length `L` when `b` arrives in `LEN_HI`: `b` over the low byte of `u_len` (R78). -/
def lenWith (s : State) (b : Byte) : Half := b ++ s.ubx.len.extractLsb' 0 8

/-- Runs `f` on the value of a hex digit, widened to 8 bits; a byte outside `HEX` selects no digit row. -/
def onDigit (b : Byte) (f : Byte → Result) : Result :=
  match hexval b with
  | some v => f (v.setWidth 8)
  | none => .refused .rowNotSelected

/-- The index of the next UBX payload byte, `u_len - u_cnt` (R34). -/
def payloadIndex (s : State) : Nat := (s.ubx.len - s.ubx.cnt).toNat

/-- The condition place of the row that the NMEA framer's registers select for `b`. -/
def nmeaCond (s : State) (b : Byte) : BitVec 2 :=
  if s.nmea.state = NState.collect ∧ b ≠ star then
    if nHasRoom s then 0#2 else 1#2
  else if s.nmea.state = NState.cksumLo ∧ isHex b then
    if nDigitsMatch s b then 0#2 else 1#2
  else 0#2

/-- The condition place of the row that the UBX framer's registers select for `b`. -/
def ubxCond (s : State) (b : Byte) : BitVec 2 :=
  if s.ubx.state = UState.lenHi then
    if lenWith s b = 0#16 then 0#2 else if s.ubxCap < (lenWith s b).toNat then 1#2 else 2#2
  else if s.ubx.state = UState.payload then
    if 2 ≤ s.ubx.cnt.toNat then 0#2 else if s.ubx.cnt = 1#16 then 1#2 else 2#2
  else if s.ubx.state = UState.cksumB then
    if uSumsMatch s b then 0#2 else 1#2
  else 0#2

/-- The transition word of the dispatcher: `DSEL = d_state ++ byte` (R79). -/
def dispatcherWord (s : State) (b : Byte) : BitVec 16 :=
  transitionWord 0#2 (statePlace .dsp (s.dState.setWidth 4)) b

/-- The transition word of the NMEA framer: `NSEL = n_state ++ byte` and the condition (R79). -/
def nmeaWord (s : State) (b : Byte) : BitVec 16 :=
  transitionWord (nmeaCond s b) (statePlace .nmea (s.nmea.state.setWidth 4)) b

/-- The transition word of the UBX framer: `USEL = u_state ++ byte` and the condition (R79). -/
def ubxWord (s : State) (b : Byte) : BitVec 16 :=
  transitionWord (ubxCond s b) (statePlace .ubx s.ubx.state) b

/-- The unit's state register holds the code of the row's state. -/
def inRowState (i : Instr) (s : State) : Bool :=
  match i.unit with
  | .nmea => s.nmea.state.setWidth 4 == i.stateCode
  | .ubx => s.ubx.state == i.stateCode
  | .dsp => s.dState.setWidth 4 == i.stateCode

/-- The row's condition on registers (30_encoding.md §8); a row without one always holds. -/
def rowCondition (i : Instr) (s : State) : Bool :=
  match i with
  | .nCollectAppend _ => nHasRoom s
  | .nCollectOverflow _ => !nHasRoom s
  | .nLoMatch b => nDigitsMatch s b
  | .nLoMismatch b => !nDigitsMatch s b
  | .uLenHiZero b => lenWith s b == 0#16
  | .uLenHiOverflow b => decide (s.ubxCap < (lenWith s b).toNat)
  | .uLenHiPayload b => decide (0 < (lenWith s b).toNat) && decide ((lenWith s b).toNat ≤ s.ubxCap)
  | .uPayloadByte _ => decide (2 ≤ s.ubx.cnt.toNat)
  | .uPayloadLast _ => s.ubx.cnt == 1#16
  | .uCksumBMatch b => uSumsMatch s b
  | .uCksumBMismatch b => !uSumsMatch s b
  | .uPayloadZeroCount _ => s.ubx.cnt == 0#16
  | .nIdleStart | .nIdleIgnore _ | .nCollectEnd | .nHiDigit _ | .nHiBad _ | .nLoBad _
  | .uIdleSync1 | .uIdleIgnore _ | .uSync2Ok | .uSync2Fail _ | .uClass _ | .uId _ | .uLenLo _
  | .uCksumA _ | .uReservedState9 _ | .uReservedState10To11 _ _ | .uReservedState12To15 _ _
  | .dIdleNmea | .dIdleUbx | .dIdleDiscard _ | .dFwdNmea _ | .dFwdUbx _ | .dReservedState _ => true

/-- A transition applies: its byte is in its byte set, its unit is in its state, its condition holds (R79). -/
def selects (i : Instr) (s : State) : Bool := i.wf && inRowState i s && rowCondition i s

/-- A meaning runs only where its row is selected; elsewhere the spec gives the row no effect (log entry 4). -/
def whenSelected (i : Instr) (s : State) (o : Result) : Result :=
  if selects i s then o else .refused .rowNotSelected

end Sys2Proof.Machine
end

