-- ==== Sys2Proof/Machine/Nmea.lean ====
section
/-! DEFINITION. The NMEA framer's transitions (41_nmea_framer.md R120 to R130). -/

namespace Sys2Proof.Machine

/-- R120. `NBUF` is not cleared and `n_exp` is not written. -/
def execNIdleStart (s : State) : Result :=
  whenSelected .nIdleStart s
    (.next ((s.setNmea { s.nmea with ck := 0#8, len := 0#16, state := NState.collect }).emit .none))

/-- R121. -/
def execNIdleIgnore (b : Byte) (s : State) : Result :=
  whenSelected (.nIdleIgnore b) s (.next (s.emit .none))

/-- R122. It ends the payload whatever `n_len` is. -/
def execNCollectEnd (s : State) : Result :=
  whenSelected .nCollectEnd s
    (.next ((s.setNmea { s.nmea with state := NState.cksumHi }).emit .none))

/-- R123. -/
def execNCollectAppend (b : Byte) (s : State) : Result :=
  whenSelected (.nCollectAppend b) s
    (onNext (storeNbuf s s.nmea.len.toNat b) fun t =>
      (t.setNmea { t.nmea with ck := nckUpdate s.nmea.ck b, len := s.nmea.len + 1#16 }).emit .none)

/-- R124 (conflict C1: the overflow has an event of its own). -/
def execNCollectOverflow (b : Byte) (s : State) : Result :=
  whenSelected (.nCollectOverflow b) s
    (.next (abortNmea s (.nmeaOverflow (BitVec.ofNat 16 s.nmeaCap))))

/-- R125. -/
def execNHiDigit (b : Byte) (s : State) : Result :=
  whenSelected (.nHiDigit b) s
    (onDigit b fun v =>
      .next ((s.setNmea { s.nmea with exp := 16#8 * v, state := NState.cksumLo }).emit .none))

/-- R126: a silent drop (R213). -/
def execNHiBad (b : Byte) (s : State) : Result :=
  whenSelected (.nHiBad b) s (.next (abortNmea s .none))

/-- What R127 and R128 share: complete `n_exp`, write the sentinel at `n_len`, report the payload read after
that write (R63), return to `IDLE`. -/
def finishNmea (b : Byte) (s : State) (report : Half → List (Option Byte) → Event) : Result :=
  onDigit b fun v =>
    onNext (storeNbuf s s.nmea.len.toNat sentinel) fun t =>
      (t.setNmea { t.nmea with exp := s.nmea.exp + v, state := NState.idle }).emit
        (report s.nmea.len (slice t.nmea.buf s.nmea.len.toNat))

/-- R127. -/
def execNLoMatch (b : Byte) (s : State) : Result :=
  whenSelected (.nLoMatch b) s (finishNmea b s .nmeaFrame)

/-- R128. -/
def execNLoMismatch (b : Byte) (s : State) : Result :=
  whenSelected (.nLoMismatch b) s (finishNmea b s .nmeaChecksumError)

/-- R129: a silent drop (R213), no sentinel. -/
def execNLoBad (b : Byte) (s : State) : Result :=
  whenSelected (.nLoBad b) s (.next (abortNmea s .none))

/-- `nmea_step(b)` (R130): the selection of the one row that applies, in the order R214 fixes. -/
def nmeaStep (b : Byte) (s : State) : Result :=
  if s.nmea.state = NState.idle then
    if b = dollar then execNIdleStart s else execNIdleIgnore b s
  else if s.nmea.state = NState.collect then
    if b = star then execNCollectEnd s
    else if nHasRoom s then execNCollectAppend b s
    else execNCollectOverflow b s
  else if s.nmea.state = NState.cksumHi then
    if isHex b then execNHiDigit b s else execNHiBad b s
  else if isHex b then
    if nDigitsMatch s b then execNLoMatch b s else execNLoMismatch b s
  else execNLoBad b s

end Sys2Proof.Machine
end

