-- ==== Sys2Proof/Machine/Ubx.lean ====
section
/-! DEFINITION. The UBX framer's transitions (42_ubx_framer.md R150 to R166). -/

namespace Sys2Proof.Machine

/-- R150. -/
def execUIdleSync1 (s : State) : Result :=
  whenSelected .uIdleSync1 s (.next ((s.setUbx { s.ubx with state := UState.sync2 }).emit .none))

/-- R151. -/
def execUIdleIgnore (b : Byte) (s : State) : Result :=
  whenSelected (.uIdleIgnore b) s (.next (s.emit .none))

/-- R152. -/
def execUSync2Ok (s : State) : Result :=
  whenSelected .uSync2Ok s
    (.next ((s.setUbx { s.ubx with ckA := 0#8, ckB := 0#8, state := UState.cls }).emit .none))

/-- R153: a silent drop (R213); the byte is not looked at again (93_implementation_defined.md U13). -/
def execUSync2Fail (b : Byte) (s : State) : Result :=
  whenSelected (.uSync2Fail b) s (.next (abortUbx s .none))

/-- R154. -/
def execUClass (b : Byte) (s : State) : Result :=
  whenSelected (.uClass b) s
    (.next ((s.setUbx { s.ubx.absorb b with cls := b, state := UState.id }).emit .none))

/-- R155. -/
def execUId (b : Byte) (s : State) : Result :=
  whenSelected (.uId b) s
    (.next ((s.setUbx { s.ubx.absorb b with id := b, state := UState.lenLo }).emit .none))

/-- R156. -/
def execULenLo (b : Byte) (s : State) : Result :=
  whenSelected (.uLenLo b) s
    (.next ((s.setUbx { s.ubx.absorb b with len := b.setWidth 16, state := UState.lenHi }).emit .none))

/-- R157. -/
def execULenHiZero (b : Byte) (s : State) : Result :=
  whenSelected (.uLenHiZero b) s
    (.next ((s.setUbx { s.ubx.absorb b with len := lenWith s b, state := UState.cksumA }).emit .none))

/-- R158: the reported length is the capacity (conflict C6). -/
def execULenHiOverflow (b : Byte) (s : State) : Result :=
  whenSelected (.uLenHiOverflow b) s
    (.next (abortUbx (s.setUbx { s.ubx.absorb b with len := lenWith s b })
      (.ubxError s.ubx.cls s.ubx.id (BitVec.ofNat 16 s.ubxCap) .bufferOverflow)))

/-- R159. -/
def execULenHiPayload (b : Byte) (s : State) : Result :=
  whenSelected (.uLenHiPayload b) s
    (.next ((s.setUbx { s.ubx.absorb b with
      len := lenWith s b, cnt := lenWith s b, state := UState.payload }).emit .none))

/-- R160. -/
def execUPayloadByte (b : Byte) (s : State) : Result :=
  whenSelected (.uPayloadByte b) s
    (onNext (storeUbuf s (payloadIndex s) b) fun t =>
      (t.setUbx { t.ubx.absorb b with cnt := s.ubx.cnt - 1#16 }).emit .none)

/-- R161. -/
def execUPayloadLast (b : Byte) (s : State) : Result :=
  whenSelected (.uPayloadLast b) s
    (onNext (storeUbuf s (payloadIndex s) b) fun t =>
      (t.setUbx { t.ubx.absorb b with cnt := 0#16, state := UState.cksumA }).emit .none)

/-- R162. The accumulators are not updated. -/
def execUCksumA (b : Byte) (s : State) : Result :=
  whenSelected (.uCksumA b) s
    (.next ((s.setUbx { s.ubx with expA := b, state := UState.cksumB }).emit .none))

/-- R163. -/
def execUCksumBMatch (b : Byte) (s : State) : Result :=
  whenSelected (.uCksumBMatch b) s
    (.next ((s.setUbx { s.ubx with state := UState.idle }).emit
      (.ubxFrame s.ubx.cls s.ubx.id s.ubx.len (slice s.ubx.buf s.ubx.len.toNat))))

/-- R164. The reported length is the declared one (conflict C6). -/
def execUCksumBMismatch (b : Byte) (s : State) : Result :=
  whenSelected (.uCksumBMismatch b) s
    (.next (abortUbx s (.ubxError s.ubx.cls s.ubx.id s.ubx.len .badChecksum)))

/-- R165, `PAYLOAD` with `u_cnt = 0`. -/
def execUPayloadZeroCount (b : Byte) (s : State) : Result :=
  whenSelected (.uPayloadZeroCount b) s (.fault .reservedState)

/-- R165, state code 9. -/
def execUReservedState9 (b : Byte) (s : State) : Result :=
  whenSelected (.uReservedState9 b) s (.fault .reservedState)

/-- R165, state codes 10 and 11. -/
def execUReservedState10To11 (x : BitVec 1) (b : Byte) (s : State) : Result :=
  whenSelected (.uReservedState10To11 x b) s (.fault .reservedState)

/-- R165, state codes 12 to 15. -/
def execUReservedState12To15 (x : BitVec 2) (b : Byte) (s : State) : Result :=
  whenSelected (.uReservedState12To15 x b) s (.fault .reservedState)

/-- `ubx_step(b)` (R166): the selection of the one row that applies. -/
def ubxStep (b : Byte) (s : State) : Result :=
  match s.ubx.state.toNat with
  | 0 => if b = sync1 then execUIdleSync1 s else execUIdleIgnore b s
  | 1 => if b = sync2 then execUSync2Ok s else execUSync2Fail b s
  | 2 => execUClass b s
  | 3 => execUId b s
  | 4 => execULenLo b s
  | 5 =>
    if lenWith s b = 0#16 then execULenHiZero b s
    else if s.ubxCap < (lenWith s b).toNat then execULenHiOverflow b s
    else execULenHiPayload b s
  | 6 =>
    if 2 ≤ s.ubx.cnt.toNat then execUPayloadByte b s
    else if s.ubx.cnt = 1#16 then execUPayloadLast b s
    else execUPayloadZeroCount b s
  | 7 => execUCksumA b s
  | 8 => if uSumsMatch s b then execUCksumBMatch b s else execUCksumBMismatch b s
  | 9 => execUReservedState9 b s
  | 10 | 11 => execUReservedState10To11 (s.ubx.state.extractLsb' 0 1) b s
  | _ => execUReservedState12To15 (s.ubx.state.extractLsb' 0 2) b s

end Sys2Proof.Machine
end

