-- ==== Sys2Proof/Machine/Dispatcher.lean ====
section
/-! DEFINITION. The dispatcher's transitions (43_dispatcher.md R190 to R195). A row that forwards its byte runs
one framer row in the same step and passes its event on. -/

namespace Sys2Proof.Machine

/-- R190. The dispatcher does not look at `n_state` in this row. -/
def execDIdleNmea (s : State) : Result :=
  whenSelected .dIdleNmea s (onNext (nmeaStep dollar s) fun t => t.gotoD DState.inNmea)

/-- R191. -/
def execDIdleUbx (s : State) : Result :=
  whenSelected .dIdleUbx s (onNext (ubxStep sync1 s) fun t => t.gotoD DState.inUbx)

/-- R192: neither framer sees the byte. -/
def execDIdleDiscard (b : Byte) (s : State) : Result :=
  whenSelected (.dIdleDiscard b) s (.next (s.emit .none))

/-- After a forwarded byte the dispatcher is `IDLE` when the NMEA framer is (R193). -/
def followNmea (t : State) : State :=
  if t.nmea.state = NState.idle then t.gotoD DState.idle else t

/-- After a forwarded byte the dispatcher is `IDLE` when the UBX framer is (R194). -/
def followUbx (t : State) : State :=
  if t.ubx.state = UState.idle then t.gotoD DState.idle else t

/-- R193. -/
def execDFwdNmea (b : Byte) (s : State) : Result :=
  whenSelected (.dFwdNmea b) s (onNext (nmeaStep b s) followNmea)

/-- R194. -/
def execDFwdUbx (b : Byte) (s : State) : Result :=
  whenSelected (.dFwdUbx b) s (onNext (ubxStep b s) followUbx)

/-- R195. -/
def execDReservedState (b : Byte) (s : State) : Result :=
  whenSelected (.dReservedState b) s (.fault .reservedState)

end Sys2Proof.Machine
end

