-- ==== Sys2Proof/Machine/Dispatch.lean ====
section
/-! DEFINITION. The meaning of every transition, one arm per row of spec/opcode_table.json. -/

namespace Sys2Proof.Machine

def exec (i : Instr) (s : State) : Host.Outcome State Fault Refusal :=
  match i with
  | .nIdleStart => Sys2Proof.Machine.execNIdleStart s
  | .nIdleIgnore b => Sys2Proof.Machine.execNIdleIgnore b s
  | .nCollectEnd => Sys2Proof.Machine.execNCollectEnd s
  | .nCollectAppend b => Sys2Proof.Machine.execNCollectAppend b s
  | .nCollectOverflow b => Sys2Proof.Machine.execNCollectOverflow b s
  | .nHiDigit b => Sys2Proof.Machine.execNHiDigit b s
  | .nHiBad b => Sys2Proof.Machine.execNHiBad b s
  | .nLoMatch b => Sys2Proof.Machine.execNLoMatch b s
  | .nLoMismatch b => Sys2Proof.Machine.execNLoMismatch b s
  | .nLoBad b => Sys2Proof.Machine.execNLoBad b s
  | .uIdleSync1 => Sys2Proof.Machine.execUIdleSync1 s
  | .uIdleIgnore b => Sys2Proof.Machine.execUIdleIgnore b s
  | .uSync2Ok => Sys2Proof.Machine.execUSync2Ok s
  | .uSync2Fail b => Sys2Proof.Machine.execUSync2Fail b s
  | .uClass b => Sys2Proof.Machine.execUClass b s
  | .uId b => Sys2Proof.Machine.execUId b s
  | .uLenLo b => Sys2Proof.Machine.execULenLo b s
  | .uLenHiZero b => Sys2Proof.Machine.execULenHiZero b s
  | .uLenHiOverflow b => Sys2Proof.Machine.execULenHiOverflow b s
  | .uLenHiPayload b => Sys2Proof.Machine.execULenHiPayload b s
  | .uPayloadByte b => Sys2Proof.Machine.execUPayloadByte b s
  | .uPayloadLast b => Sys2Proof.Machine.execUPayloadLast b s
  | .uCksumA b => Sys2Proof.Machine.execUCksumA b s
  | .uCksumBMatch b => Sys2Proof.Machine.execUCksumBMatch b s
  | .uCksumBMismatch b => Sys2Proof.Machine.execUCksumBMismatch b s
  | .uPayloadZeroCount b => Sys2Proof.Machine.execUPayloadZeroCount b s
  | .uReservedState9 b => Sys2Proof.Machine.execUReservedState9 b s
  | .uReservedState10To11 x b => Sys2Proof.Machine.execUReservedState10To11 x b s
  | .uReservedState12To15 x b => Sys2Proof.Machine.execUReservedState12To15 x b s
  | .dIdleNmea => Sys2Proof.Machine.execDIdleNmea s
  | .dIdleUbx => Sys2Proof.Machine.execDIdleUbx s
  | .dIdleDiscard b => Sys2Proof.Machine.execDIdleDiscard b s
  | .dFwdNmea b => Sys2Proof.Machine.execDFwdNmea b s
  | .dFwdUbx b => Sys2Proof.Machine.execDFwdUbx b s
  | .dReservedState b => Sys2Proof.Machine.execDReservedState b s

end Sys2Proof.Machine
end

