-- ==== Sys2Proof/Machine/Cycle.lean ====
section
/-! DEFINITION. What one stimulus does: a byte, a clock cycle, a consumer read (43_dispatcher.md R196,
30_encoding.md R83, 20_memory.md R58). -/

namespace Sys2Proof.Machine

/-- The block's operation on one byte (R196): the dispatcher row that `d_state` and the byte select. -/
def byteStep (b : Byte) (s : State) : Result :=
  match decode (dispatcherWord s b) with
  | .ok i => exec i s
  | .error _ => .refused .noSuchRow

/-- One clock cycle (R83): reset first, then a byte if one is presented, else the state holds. -/
def cycleStep (rst inValid : Bool) (b : Byte) (s : State) : Result :=
  if rst then .next (applyReset s)
  else if inValid then byteStep b s
  else .next (holdCycle s)

/-- One stimulus: a clock cycle, or a consumer read at the step boundary (log entries 5 and 10). -/
def stimulusStep (x : Stimulus) (s : State) : Result :=
  match x with
  | .cycle rst inValid b => cycleStep rst inValid b s
  | .readNbuf a => readNbuf s a.toNat
  | .readUbuf a => readUbuf s a.toNat

end Sys2Proof.Machine
end

