-- ==== Sys2Proof/Machine/Fetch.lean ====
section
/-! DEFINITION. Presenting a byte to the block, and the state in which the next byte selects a given
transition (log entry 6). -/

namespace Sys2Proof.Machine

/-- A byte presented in the next cycle, before all other stimuli. -/
def State.present (s : State) (b : Byte) : State :=
  s.setInputs (.cycle false true b :: s.inputs)

/-- The largest capacity of R7 and R8. -/
def fullCap : Fin 65536 := ⟨65535, by decide⟩

/-- A capacity of 0. -/
def zeroCap : Fin 65536 := ⟨0, by decide⟩

/-- The NMEA framer in state `c` with the dispatcher forwarding to it; the byte `'$'` of an idle framer comes by
the idle dispatcher (R190). -/
def routeNmea (s : State) (c : BitVec 2) : State :=
  (s.setNmea { s.nmea with state := c }).gotoD DState.inNmea

/-- The UBX framer in state `c` with the dispatcher forwarding to it. -/
def routeUbx (s : State) (c : BitVec 4) : State :=
  (s.setUbx { s.ubx with state := c }).gotoD DState.inUbx

/-- The NMEA framer in `CKSUM_LO` with `n_exp + d` as accumulated checksum, and room for the sentinel. -/
def primeDigits (s : State) (d : Byte) : State :=
  let t := routeNmea s NState.cksumLo
  { t with cfg := { t.cfg with nmeaCap := fullCap }, nmea := { t.nmea with ck := s.nmea.exp + d } }

/-- The value of a hex digit in 8 bits; used to prime a state only, where 0 stands for a byte that is no
digit. -/
def digitOrZero (b : Byte) : Byte :=
  match hexval b with
  | some v => v.setWidth 8
  | none => 0#8

/-- `s` with every register that selects the transition `i` set so that the next byte, if it is `i`'s own, runs
`i`: through the dispatcher for a framer's row. Nothing else changes. -/
def primeFor (i : Instr) (s : State) : State :=
  match i with
  | .nIdleStart => (s.setNmea { s.nmea with state := NState.idle }).gotoD DState.idle
  | .nIdleIgnore _ => routeNmea s NState.idle
  | .nCollectEnd => routeNmea s NState.collect
  | .nCollectAppend _ =>
    let t := routeNmea s NState.collect
    { t with cfg := { t.cfg with nmeaCap := fullCap }, nmea := { t.nmea with len := 0#16 } }
  | .nCollectOverflow _ =>
    let t := routeNmea s NState.collect
    { t with cfg := { t.cfg with nmeaCap := zeroCap } }
  | .nHiDigit _ => routeNmea s NState.cksumHi
  | .nHiBad _ => routeNmea s NState.cksumHi
  | .nLoMatch b => primeDigits s (digitOrZero b)
  | .nLoMismatch b => primeDigits s (digitOrZero b + 1#8)
  | .nLoBad _ => routeNmea s NState.cksumLo
  | .uIdleSync1 => (s.setUbx { s.ubx with state := UState.idle }).gotoD DState.idle
  | .uIdleIgnore _ => routeUbx s UState.idle
  | .uSync2Ok => routeUbx s UState.sync2
  | .uSync2Fail _ => routeUbx s UState.sync2
  | .uClass _ => routeUbx s UState.cls
  | .uId _ => routeUbx s UState.id
  | .uLenLo _ => routeUbx s UState.lenLo
  | .uLenHiZero _ =>
    let t := routeUbx s UState.lenHi
    { t with ubx := { t.ubx with len := 0#16 } }
  | .uLenHiOverflow _ =>
    let t := routeUbx s UState.lenHi
    { t with cfg := { t.cfg with ubxCap := zeroCap }, ubx := { t.ubx with len := 1#16 } }
  | .uLenHiPayload _ =>
    let t := routeUbx s UState.lenHi
    { t with cfg := { t.cfg with ubxCap := fullCap }, ubx := { t.ubx with len := 1#16 } }
  | .uPayloadByte _ =>
    let t := routeUbx s UState.payload
    { t with cfg := { t.cfg with ubxCap := fullCap }, ubx := { t.ubx with len := 2#16, cnt := 2#16 } }
  | .uPayloadLast _ =>
    let t := routeUbx s UState.payload
    { t with cfg := { t.cfg with ubxCap := fullCap }, ubx := { t.ubx with len := 1#16, cnt := 1#16 } }
  | .uCksumA _ => routeUbx s UState.cksumA
  | .uCksumBMatch b =>
    let t := routeUbx s UState.cksumB
    { t with ubx := { t.ubx with expA := t.ubx.ckA, ckB := b } }
  | .uCksumBMismatch b =>
    let t := routeUbx s UState.cksumB
    { t with ubx := { t.ubx with ckB := b + 1#8 } }
  | .uPayloadZeroCount _ =>
    let t := routeUbx s UState.payload
    { t with ubx := { t.ubx with cnt := 0#16 } }
  | .uReservedState9 _ => routeUbx s 9#4
  | .uReservedState10To11 x _ => routeUbx s (5#3 ++ x)
  | .uReservedState12To15 x _ => routeUbx s (3#2 ++ x)
  | .dIdleNmea => s.gotoD DState.idle
  | .dIdleUbx => s.gotoD DState.idle
  | .dIdleDiscard _ => s.gotoD DState.idle
  | .dFwdNmea _ => s.gotoD DState.inNmea
  | .dFwdUbx _ => s.gotoD DState.inUbx
  | .dReservedState _ => s.gotoD DState.reserved

/-- The state in which the next step runs the transition of the word `w`, its byte presented. A word that is no
transition word presents its byte only. -/
def fetchFrom (w : BitVec 16) (s : State) : State :=
  match decode w with
  | .ok i => (primeFor i s).present i.byte
  | .error _ => s.present (wordByte w)

end Sys2Proof.Machine
end

