-- ==== Sys2Proof/Machine/Step.lean ====
section
/-! DEFINITION. The machine's step: the next stimulus happens (43_dispatcher.md R196, 30_encoding.md R83). -/

namespace Sys2Proof.Machine

/-- The next stimulus happens. When none is left, a cycle without a byte passes (log entry 5). -/
def step (s : State) : Host.Outcome State Fault Refusal :=
  match s.inputs with
  | [] => .next (holdCycle s)
  | x :: rest => stimulusStep x (s.setInputs rest)

/-- The fixed entry point of the host: `s` with a table word stored where the next step meets it (log
entry 6). -/
def State.withFetchWord (s : State) (nbits w : Nat) : State :=
  fetchFrom (BitVec.ofNat 16 (w % 2 ^ nbits)) s

end Sys2Proof.Machine
end

