-- ==== Sys2Proof/Machine/Ports.lean ====
section
/-! DEFINITION. The output ports of the block (30_encoding.md R80, R81, R83; 10_state.md R37). -/

namespace Sys2Proof.Machine

/-- The 1-bit code of an error kind (R81). -/
def ErrorKind.code : ErrorKind → BitVec 1
  | .bufferOverflow => 0#1
  | .badChecksum => 1#1

/-- The 3-bit code of an event; 6 and 7 are reserved and never produced (R80, R84). -/
def Event.code : Event → BitVec 3
  | .none => 0#3
  | .nmeaFrame _ _ => 1#3
  | .nmeaChecksumError _ _ => 2#3
  | .nmeaOverflow _ => 3#3
  | .ubxFrame _ _ _ _ => 4#3
  | .ubxError _ _ _ _ => 5#3

/-- The `len` field of an event; 0 for kind 0 (R83). -/
def Event.len : Event → Half
  | .none => 0#16
  | .nmeaFrame n _ => n
  | .nmeaChecksumError n _ => n
  | .nmeaOverflow n => n
  | .ubxFrame _ _ n _ => n
  | .ubxError _ _ n _ => n

/-- `evt_class`; 0 for every kind but 4 and 5 (R83). -/
def Event.classPort : Event → Byte
  | .ubxFrame c _ _ _ => c
  | .ubxError c _ _ _ => c
  | .none => 0#8
  | .nmeaFrame _ _ => 0#8
  | .nmeaChecksumError _ _ => 0#8
  | .nmeaOverflow _ => 0#8

/-- `evt_id`; 0 for every kind but 4 and 5 (R83). -/
def Event.idPort : Event → Byte
  | .ubxFrame _ i _ _ => i
  | .ubxError _ i _ _ => i
  | .none => 0#8
  | .nmeaFrame _ _ => 0#8
  | .nmeaChecksumError _ _ => 0#8
  | .nmeaOverflow _ => 0#8

/-- `evt_ekind`; 0 for every kind but 5 (R83). -/
def Event.ekindPort : Event → BitVec 1
  | .ubxError _ _ _ k => k.code
  | .none => 0#1
  | .nmeaFrame _ _ => 0#1
  | .nmeaChecksumError _ _ => 0#1
  | .nmeaOverflow _ => 0#1
  | .ubxFrame _ _ _ _ => 0#1

/-- An event that reports an error (60_exceptions.md R215). -/
def Event.isError : Event → Bool
  | .nmeaChecksumError _ _ => true
  | .nmeaOverflow _ => true
  | .ubxError _ _ _ _ => true
  | .none => false
  | .nmeaFrame _ _ => false
  | .ubxFrame _ _ _ _ => false

/-- The output ports of R83. `nbData` and `ubData` hold what the last consumer read returned (log entry 10). -/
structure Ports where
  inReady : BitVec 1
  evtValid : BitVec 1
  evtKind : BitVec 3
  evtClass : Byte
  evtId : Byte
  evtLen : Half
  evtEkind : BitVec 1
  dStatus : BitVec 2
  nStatus : BitVec 2
  uStatus : BitVec 4
  nbData : Option Byte
  ubData : Option Byte
  deriving DecidableEq, Repr

/-- What the ports show after a cycle: `in_ready` is constantly 1, `evt_valid` is 1 when the cycle's step
emitted an event (R83), the state registers are readable (R37). -/
def State.ports (s : State) : Ports where
  inReady := 1#1
  evtValid := if s.evt = .none then 0#1 else 1#1
  evtKind := s.evt.code
  evtClass := s.evt.classPort
  evtId := s.evt.idPort
  evtLen := s.evt.len
  evtEkind := s.evt.ekindPort
  dStatus := s.dState
  nStatus := s.nmea.state
  uStatus := s.ubx.state
  nbData := s.nbRead
  ubData := s.ubRead

end Sys2Proof.Machine
end

