-- ==== Sys2Proof/Machine/Run.lean ====
section
/-! DEFINITION. Feeding a byte stream to the block or to one framer, and the observation of a run
(43_dispatcher.md R198, R199; 41_nmea_framer.md R131; 42_ubx_framer.md R167). -/

namespace Sys2Proof.Machine

/-- Feeds bytes one by one: the event of every step in order, `Event.none` included, and the last state; `none`
when a step stops. -/
def feedBy (f : Byte → State → Result) : List Byte → State → Option (List Event × State)
  | [], s => some ([], s)
  | b :: l, s =>
    match f b s with
    | .next t => (feedBy f l t).map fun r => (t.evt :: r.1, r.2)
    | .fault _ => none
    | .refused _ => none

/-- The NMEA framer used alone (92_eei_decisions.md D23). -/
def nmeaFeed : List Byte → State → Option (List Event × State) := feedBy nmeaStep

/-- The UBX framer used alone (92_eei_decisions.md D23). -/
def ubxFeed : List Byte → State → Option (List Event × State) := feedBy ubxStep

/-- The whole block, through the dispatcher (R196). -/
def blockFeed : List Byte → State → Option (List Event × State) := feedBy byteStep

/-- The events that are not `None` with the index of the step that emitted each, the first being step `k`
(R199). -/
def observation : Nat → List Event → List (Nat × Event)
  | _, [] => []
  | k, e :: l => if e = .none then observation (k + 1) l else (k, e) :: observation (k + 1) l

/-- One of the two payload buffers (20_memory.md R50). -/
inductive Buffer where
  | nbuf
  | ubuf
  deriving DecidableEq, Repr

/-- What a consumer read returned: after the `boundary`-th byte the cell `index` of `buffer` held `value` (R58,
R63). -/
structure BufferRead where
  boundary : Nat
  buffer : Buffer
  index : Nat
  value : Byte
  deriving DecidableEq, Repr

/-- The observation of a run (R199): how many bytes were fed since reset, the events that are not `None` with the
index of the step that emitted each, the buffer contents the consumer read at each step boundary, and the last
state (log entry 17). -/
structure Observation where
  bytes : Nat
  events : List (Nat × Event)
  reads : List BufferRead
  final : State
  deriving DecidableEq, Repr

/-- Nothing has been observed yet. -/
def Observation.start (s : State) : Observation where
  bytes := 0
  events := []
  reads := []
  final := s

/-- A byte step answered `t`: one byte more, and its event unless that is `None`. -/
def Observation.afterByte (o : Observation) (t : State) : Observation :=
  { o with
    bytes := o.bytes + 1
    events := if t.evt = .none then o.events else o.events ++ [(o.bytes + 1, t.evt)]
    final := t }

/-- A consumer read answered `t` and returned `v`. -/
def Observation.afterRead (o : Observation) (b : Buffer) (a : Half) (v : Option Byte) (t : State) : Observation :=
  { o with reads := o.reads ++ v.toList.map (BufferRead.mk o.bytes b a.toNat), final := t }

/-- What is observed once the stimulus `x` has answered `t`; `none` stands for a cycle without a byte after the
last stimulus. A reset starts the observation anew, because a run's bytes are those fed after reset (R199). -/
def Observation.after (o : Observation) (x : Option Stimulus) (t : State) : Observation :=
  match x with
  | some (.cycle true _ _) => .start t
  | some (.cycle false true _) => o.afterByte t
  | some (.cycle false false _) => { o with final := t }
  | some (.readNbuf a) => o.afterRead .nbuf a t.nbRead t
  | some (.readUbuf a) => o.afterRead .ubuf a t.ubRead t
  | none => { o with final := t }

/-- Observes `n` further steps of the machine; `none` when one of them stops. -/
def observeSteps : Nat → Observation → Option Observation
  | 0, o => some o
  | n + 1, o =>
    match step o.final with
    | .next t => observeSteps n (o.after o.final.inputs.head? t)
    | .fault _ => none
    | .refused _ => none

/-- The observation of the run over all stimuli the state holds (R199): the run ends where its input ends, and
nothing is flushed (92_eei_decisions.md D25). -/
def observe (s : State) : Option Observation := observeSteps s.inputs.length (.start s)

/-- The byte a stimulus presents to the block, if it presents one outside reset. -/
def Stimulus.byte? : Stimulus → Option Byte
  | .cycle false true b => some b
  | .cycle false false _ => none
  | .cycle true _ _ => none
  | .readNbuf _ => none
  | .readUbuf _ => none

/-- A reset cycle (R240). -/
def Stimulus.isReset : Stimulus → Bool
  | .cycle rst _ _ => rst
  | .readNbuf _ => false
  | .readUbuf _ => false

/-- A consumer read (R58). -/
def Stimulus.isRead : Stimulus → Bool
  | .cycle _ _ _ => false
  | .readNbuf _ => true
  | .readUbuf _ => true

/-- The bytes a list of stimuli feeds to the block, in order. -/
def bytesOf (l : List Stimulus) : List Byte := l.filterMap Stimulus.byte?

/-- The consumer reads in a list of stimuli, each with the step boundary at which it stands, the first boundary
being `k`. -/
def readsAsked : Nat → List Stimulus → List (Nat × Buffer × Nat)
  | _, [] => []
  | k, .cycle rst inValid _ :: l => readsAsked (if !rst && inValid then k + 1 else k) l
  | k, .readNbuf a :: l => (k, .nbuf, a.toNat) :: readsAsked k l
  | k, .readUbuf a :: l => (k, .ubuf, a.toNat) :: readsAsked k l

/-- The value of one cell of a buffer, if anything was written to it. -/
def State.cell (s : State) : Buffer → Nat → Option Byte
  | .nbuf, a => readCell s.nmea.buf a
  | .ubuf, a => readCell s.ubx.buf a

/-- The stimuli of a byte stream: one cycle with a byte for each. -/
def byteCycles (l : List Byte) : List Stimulus := l.map (Stimulus.cycle false true)

/-- An NMEA frame on the wire (30_encoding.md R73). -/
def nmeaWire (p : List Byte) (h1 h2 : Byte) : List Byte := dollar :: p ++ [star, h1, h2]

/-- The header bytes a UBX checksum covers: class, id, length low, length high (R74, R105). -/
def ubxHeader (cls id : Byte) (len : Half) : List Byte :=
  [cls, id, len.extractLsb' 0 8, len.extractLsb' 8 8]

/-- A UBX frame on the wire (30_encoding.md R74). -/
def ubxWire (cls id : Byte) (p : List Byte) (ckA ckB : Byte) : List Byte :=
  [sync1, sync2] ++ ubxHeader cls id (BitVec.ofNat 16 p.length) ++ p ++ [ckA, ckB]

end Sys2Proof.Machine
end

