-- ==== Sys2Proof/Safety.lean ====
section
/-! DEFINITION. What counts as a safe state of the block: the invariants the spec states or derives
(10_state.md R26, R34; 20_memory.md R62; 40_checksum.md R102, R105; 43_dispatcher.md R197). -/

namespace Sys2Proof.Machine

/-- Every state register holds a legal code (R23, R24, R30). -/
def LegalCodes (s : State) : Prop := s.dState ≠ DState.reserved ∧ s.ubx.state.toNat ≤ 8

/-- The coupling invariant (R197). -/
def Coupled (s : State) : Prop :=
  (s.dState = DState.idle → s.nmea.state = NState.idle ∧ s.ubx.state = UState.idle) ∧
  (s.dState = DState.inNmea → s.nmea.state ≠ NState.idle ∧ s.ubx.state = UState.idle) ∧
  (s.dState = DState.inUbx → s.ubx.state ≠ UState.idle ∧ s.nmea.state = NState.idle)

/-- A buffer in canonical form, all of whose cells exist: their indices are below `size` (R51, R52, R62). -/
def BufferOk (m : Memory) (size : Nat) : Prop := Memory.wf m = true ∧ ∀ c ∈ m, c.1 < size

/-- Cells `0 ..` hold the bytes `p` and were written since the last reset. -/
def Holds (m : Memory) (fresh : List Nat) (p : List Byte) : Prop :=
  slice m p.length = p.map some ∧ ∀ a, a < p.length → a ∈ fresh

/-- The NMEA framer: `n_len <= NMEA_CAP` (R26); inside a frame `NBUF[0 .. n_len - 1]` is the payload so far,
without `'*'`, and `n_ck` its checksum (R56, R102); in `CKSUM_LO` the low nibble of `n_exp` is 0 (R125). -/
def NmeaInv (s : State) : Prop :=
  BufferOk s.nmea.buf (s.nmeaCap + 1) ∧ s.nmea.len.toNat ≤ s.nmeaCap ∧
  (s.nmea.state ≠ NState.idle → ∃ p : List Byte, p.length = s.nmea.len.toNat ∧ star ∉ p ∧
    Holds s.nmea.buf s.nmea.fresh p ∧ s.nmea.ck = nck p) ∧
  (s.nmea.state = NState.cksumLo → s.nmea.exp.extractLsb' 0 4 = 0#4)

/-- The header bytes the UBX framer has taken in, by its state (R105). -/
def headerSoFar (u : UbxFramer) : List Byte :=
  match u.state.toNat with
  | 3 => [u.cls]
  | 4 => [u.cls, u.id]
  | 5 => [u.cls, u.id, u.len.extractLsb' 0 8]
  | 6 | 7 | 8 => ubxHeader u.cls u.id u.len
  | _ => []

/-- How many payload bytes the UBX framer has taken in, by its state (R34). -/
def payloadSoFar (u : UbxFramer) : Nat :=
  match u.state.toNat with
  | 6 => u.len.toNat - u.cnt.toNat
  | 7 | 8 => u.len.toNat
  | _ => 0

/-- The UBX framer: in `PAYLOAD`, `1 <= u_cnt <= u_len <= UBX_CAP` (R34); after it `u_len <= UBX_CAP`; from
`CLASS` on, `UBUF` holds the payload so far and the accumulators are the checksum of what was taken in
(R105). -/
def UbxInv (s : State) : Prop :=
  BufferOk s.ubx.buf s.ubxCap ∧
  (s.ubx.state = UState.payload → 1 ≤ s.ubx.cnt.toNat ∧ s.ubx.cnt.toNat ≤ s.ubx.len.toNat) ∧
  (s.ubx.state = UState.payload ∨ s.ubx.state = UState.cksumA ∨ s.ubx.state = UState.cksumB →
    s.ubx.len.toNat ≤ s.ubxCap) ∧
  (2 ≤ s.ubx.state.toNat → ∃ p : List Byte, p.length = payloadSoFar s.ubx ∧
    Holds s.ubx.buf s.ubx.fresh p ∧ (s.ubx.ckA, s.ubx.ckB) = uck (headerSoFar s.ubx ++ p))

/-- The states the block is meant to be in. -/
def Inv (s : State) : Prop := LegalCodes s ∧ Coupled s ∧ NmeaInv s ∧ UbxInv s

/-- All three state registers are `IDLE`: the recovery state of R210. -/
def AllIdle (s : State) : Prop :=
  s.dState = DState.idle ∧ s.nmea.state = NState.idle ∧ s.ubx.state = UState.idle

end Sys2Proof.Machine
end

