-- ==== Sys2Proof/Certificates/Slice0/Obligations.lean ====
section
/-! DEFINITION. The statements for the provers. Each docstring names the rule or the section of spec/ that the
statement formalises; a statement that rests on a choice of the model names the log entry. -/

open Sys2Proof Sys2Proof.Machine

/-! ### Encoding and selection -/

/-- Decoding the word of a well-formed transition gives the transition back, for every operand. The selector in
the word is 30_encoding.md §4; the places above it are the model's choice (log entry 2). -/
def Obligations.DecodeOfEncode : Prop :=
  ∀ i : Instr, i.wf = true → decode (encode i) = .ok i

/-- A word that decodes is the word of the well-formed transition it decodes to: each word has one meaning (log
entry 2). -/
def Obligations.EncodeOfDecode : Prop :=
  ∀ (w : BitVec 16) (i : Instr), decode w = .ok i → i.wf = true ∧ encode i = w

/-- Every well-formed transition lies in the row of the opcode table that bears its mnemonic: unit, match under
mask, byte set and position among the rows of one selector (30_encoding.md §4). -/
def Obligations.TransitionLiesInItsTableRow : Prop :=
  ∀ i : Instr, i.wf = true →
    ∃ r ∈ opcodeTable, r.mnemonic = i.mnemonic ∧ r.admits i.unit i.selector i.condPlace = true

/-- For every selector value and every register state exactly one row of each unit applies
(30_encoding.md §4). -/
def Obligations.ExactlyOneTableRowApplies : Prop :=
  ∀ (s : State) (b : Byte),
    (opcodeTable.filter fun r =>
      r.admits .nmea ((s.nmea.state.setWidth 4 : BitVec 4) ++ b) (nmeaCond s b)).length = 1 ∧
    (opcodeTable.filter fun r => r.admits .ubx (s.ubx.state ++ b) (ubxCond s b)).length = 1 ∧
    (opcodeTable.filter fun r =>
      r.admits .dsp ((s.dState.setWidth 4 : BitVec 4) ++ b) 0#2).length = 1

/-- In every state each unit has exactly one transition for each byte whose state, byte set and condition hold
(30_encoding.md §1). -/
def Obligations.ExactlyOneTransitionSelected : Prop :=
  ∀ (s : State) (u : FramingUnit) (b : Byte),
    ∃ i : Instr, (i.unit = u ∧ i.byte = b ∧ selects i s = true) ∧
      ∀ j : Instr, j.unit = u ∧ j.byte = b ∧ selects j s = true → j = i

/-- Words written out from the spec's encodings decode to the transitions they stand for: `DSEL` and `USEL` words
as the opcode table numbers them, `NSEL` words and `USEL` words of states 0 to 3 with the model's place bits (log
entries 2 and 3). -/
def Obligations.SampleWordsDecode : Prop :=
  decode 0x0024#16 = .ok .dIdleNmea ∧ decode 0x00B5#16 = .ok .dIdleUbx ∧
  decode 0x0300#16 = .ok (.dReservedState 0x00#8) ∧
  decode 0x1024#16 = .ok .nIdleStart ∧ decode 0x112A#16 = .ok .nCollectEnd ∧
  decode 0x5141#16 = .ok (.nCollectOverflow 0x41#8) ∧ decode 0x1361#16 = .ok (.nLoMatch 0x61#8) ∧
  decode 0x20B5#16 = .ok .uIdleSync1 ∧ decode 0x2162#16 = .ok .uSync2Ok ∧
  decode 0x0405#16 = .ok (.uLenLo 0x05#8) ∧ decode 0x4501#16 = .ok (.uLenHiOverflow 0x01#8) ∧
  decode 0x0B17#16 = .ok (.uReservedState10To11 1#1 0x17#8)

/-- A transition asked for in a state that does not select its row is refused by name (the model's choice, log
entry 4). -/
def Obligations.UnselectedTransitionRefused : Prop :=
  ∀ (i : Instr) (s : State), selects i s = false → exec i s = .refused .rowNotSelected

/-! ### The step and the consolidated functions -/

/-- When the next stimulus is a cycle with a byte, the dispatcher's selector word decodes to a transition that is
selected, and the step is that transition's meaning on the state without the stimulus
(43_dispatcher.md §2). -/
def Obligations.StepRunsDecodedTransition : Prop :=
  ∀ (s : State) (b : Byte) (rest : List Stimulus), s.inputs = .cycle false true b :: rest →
    ∃ i : Instr, decode (dispatcherWord s b) = .ok i ∧ i.wf = true ∧ i.unit = .dsp ∧ i.byte = b ∧
      selects i s = true ∧ step s = exec i { s with inputs := rest }

/-- `nmea_step` is the meaning of the one transition that the NMEA selector word and the row's condition decode to
(41_nmea_framer.md §5). -/
def Obligations.NmeaStepRunsDecodedTransition : Prop :=
  ∀ (s : State) (b : Byte),
    ∃ i : Instr, decode (nmeaWord s b) = .ok i ∧ i.wf = true ∧ i.unit = .nmea ∧ i.byte = b ∧
      selects i s = true ∧ nmeaStep b s = exec i s

/-- `ubx_step` is the meaning of the one transition that the UBX selector word and the row's condition decode to
(42_ubx_framer.md §6). -/
def Obligations.UbxStepRunsDecodedTransition : Prop :=
  ∀ (s : State) (b : Byte),
    ∃ i : Instr, decode (ubxWord s b) = .ok i ∧ i.wf = true ∧ i.unit = .ubx ∧ i.byte = b ∧
      selects i s = true ∧ ubxStep b s = exec i s

/-! ### The NMEA framer's rows -/

/-- R120. -/
def Obligations.NIdleStartOpensFrame : Prop :=
  Instr.selector .nIdleStart = 0x024#12 ∧
  ∀ s : State, s.nmea.state = NState.idle →
    exec .nIdleStart s = .next { s with
      nmea := { s.nmea with ck := 0#8, len := 0#16, state := NState.collect }, evt := .none }

/-- 41_nmea_framer.md §2: `'*'` ends the payload whatever `n_len` is and is neither stored nor accumulated. That the two
rows that take a payload byte are refused on it is the model's choice (log entry 4). -/
def Obligations.NCollectEndEndsPayload : Prop :=
  Instr.selector .nCollectEnd = 0x12A#12 ∧
  (∀ s : State, s.nmea.state = NState.collect →
    exec .nCollectEnd s = .next { s with
      nmea := { s.nmea with state := NState.cksumHi }, evt := .none }) ∧
  ∀ s : State, exec (.nCollectAppend star) s = .refused .rowNotSelected ∧
    exec (.nCollectOverflow star) s = .refused .rowNotSelected

/-- R123: the byte is stored at `n_len`, accumulated and counted; every other cell and everything else is
unchanged. -/
def Obligations.NCollectAppendStoresByte : Prop :=
  ∀ (s : State) (b : Byte), s.nmea.state = NState.collect → b ≠ star →
    s.nmea.len.toNat < s.cfg.nmeaCap.val →
    (Instr.nCollectAppend b).selector = 1#4 ++ b ∧
    ∃ t : State, exec (.nCollectAppend b) s = .next t ∧
      t = { s with
        nmea := { s.nmea with
          ck := s.nmea.ck ^^^ b, len := s.nmea.len + 1#16, buf := t.nmea.buf, fresh := t.nmea.fresh },
        evt := .none } ∧
      (∀ a : Nat, readCell t.nmea.buf a =
        if a = s.nmea.len.toNat then some b else readCell s.nmea.buf a) ∧
      (∀ a : Nat, a ∈ t.nmea.fresh ↔ a = s.nmea.len.toNat ∨ a ∈ s.nmea.fresh)

/-- 41_nmea_framer.md §2, the overflow row: the event carries the capacity, the byte is dropped, nothing else
changes. -/
def Obligations.NCollectOverflowAborts : Prop :=
  ∀ (s : State) (b : Byte), s.nmea.state = NState.collect → b ≠ star →
    s.cfg.nmeaCap.val ≤ s.nmea.len.toNat →
    exec (.nCollectOverflow b) s = .next { s with
      nmea := { s.nmea with state := NState.idle },
      evt := .nmeaOverflow (BitVec.ofNat 16 s.cfg.nmeaCap.val) }

/-- R125: `n_exp` becomes 16 times the digit; a letter counts the same in both cases. -/
def Obligations.NHiDigitStoresHighNibble : Prop :=
  ∀ (s : State) (b : Byte) (v : BitVec 4), s.nmea.state = NState.cksumHi → hexval b = some v →
    (Instr.nHiDigit b).selector = 2#4 ++ b ∧
    exec (.nHiDigit b) s = .next { s with
      nmea := { s.nmea with exp := v ++ 0#4, state := NState.cksumLo }, evt := .none } ∧
    (0x41#8 ≤ b ∧ b ≤ 0x46#8 → hexval (b + 0x20#8) = some v)

/-- 41_nmea_framer.md §4, the match row: the digits complete `n_exp`, the sentinel is written at `n_len`, the frame
is reported with the cells after that write, the framer is `IDLE`. -/
def Obligations.NLoMatchDeliversFrame : Prop :=
  ∀ (s : State) (b : Byte) (v : BitVec 4), s.nmea.state = NState.cksumLo → hexval b = some v →
    s.nmea.exp + v.setWidth 8 = s.nmea.ck → s.nmea.len.toNat ≤ s.cfg.nmeaCap.val →
    ∃ t : State, exec (.nLoMatch b) s = .next t ∧
      t = { s with
        nmea := { s.nmea with
          exp := s.nmea.exp + v.setWidth 8, state := NState.idle, buf := t.nmea.buf, fresh := t.nmea.fresh },
        evt := .nmeaFrame s.nmea.len ((List.range s.nmea.len.toNat).map (readCell s.nmea.buf)) } ∧
      (∀ a : Nat, readCell t.nmea.buf a =
        if a = s.nmea.len.toNat then some 0x00#8 else readCell s.nmea.buf a) ∧
      (∀ a : Nat, a ∈ t.nmea.fresh ↔ a = s.nmea.len.toNat ∨ a ∈ s.nmea.fresh)

/-- R128: as the match row, with the checksum-error event. -/
def Obligations.NLoMismatchReportsError : Prop :=
  ∀ (s : State) (b : Byte) (v : BitVec 4), s.nmea.state = NState.cksumLo → hexval b = some v →
    s.nmea.exp + v.setWidth 8 ≠ s.nmea.ck → s.nmea.len.toNat ≤ s.cfg.nmeaCap.val →
    (Instr.nLoMismatch b).selector = 3#4 ++ b ∧
    ∃ t : State, exec (.nLoMismatch b) s = .next t ∧
      t = { s with
        nmea := { s.nmea with
          exp := s.nmea.exp + v.setWidth 8, state := NState.idle, buf := t.nmea.buf, fresh := t.nmea.fresh },
        evt := .nmeaChecksumError s.nmea.len ((List.range s.nmea.len.toNat).map (readCell s.nmea.buf)) } ∧
      (∀ a : Nat, readCell t.nmea.buf a =
        if a = s.nmea.len.toNat then some 0x00#8 else readCell s.nmea.buf a) ∧
      (∀ a : Nat, a ∈ t.nmea.fresh ↔ a = s.nmea.len.toNat ∨ a ∈ s.nmea.fresh)

/-- R213: malformed checksum digits, a failed second sync byte and bytes outside any frame emit no event; the
first three return their framer to `IDLE`, the others change nothing. -/
def Obligations.SilentDropsEmitNothing : Prop :=
  (∀ (s : State) (b : Byte), s.nmea.state = NState.cksumHi → hexval b = none →
    exec (.nHiBad b) s = .next { s with nmea := { s.nmea with state := NState.idle }, evt := .none }) ∧
  (∀ (s : State) (b : Byte), s.nmea.state = NState.cksumLo → hexval b = none →
    exec (.nLoBad b) s = .next { s with nmea := { s.nmea with state := NState.idle }, evt := .none }) ∧
  (∀ (s : State) (b : Byte), s.ubx.state = UState.sync2 → b ≠ sync2 →
    exec (.uSync2Fail b) s = .next { s with ubx := { s.ubx with state := UState.idle }, evt := .none }) ∧
  (∀ (s : State) (b : Byte), s.dState = DState.idle → b ≠ dollar → b ≠ sync1 →
    exec (.dIdleDiscard b) s = .next { s with evt := .none }) ∧
  (∀ (s : State) (b : Byte), s.nmea.state = NState.idle → b ≠ dollar →
    exec (.nIdleIgnore b) s = .next { s with evt := .none }) ∧
  (∀ (s : State) (b : Byte), s.ubx.state = UState.idle → b ≠ sync1 →
    exec (.uIdleIgnore b) s = .next { s with evt := .none })

/-! ### The UBX framer's rows -/

/-- R150 and R152: the sync bytes; the accumulators are cleared by the second one only. -/
def Obligations.USyncBytesOpenFrame : Prop :=
  Instr.selector .uIdleSync1 = 0x0B5#12 ∧ Instr.selector .uSync2Ok = 0x162#12 ∧
  (∀ s : State, s.ubx.state = UState.idle →
    exec .uIdleSync1 s = .next { s with ubx := { s.ubx with state := UState.sync2 }, evt := .none }) ∧
  (∀ s : State, s.ubx.state = UState.sync2 →
    exec .uSync2Ok s = .next { s with
      ubx := { s.ubx with ckA := 0#8, ckB := 0#8, state := UState.cls }, evt := .none })

/-- R154, R155 and R156: the header bytes are stored, accumulated with the new `ckA` in `ckB`, and the state
advances. -/
def Obligations.UHeaderBytesStored : Prop :=
  ∀ (s : State) (b : Byte),
    (Instr.uClass b).selector = 2#4 ++ b ∧ (Instr.uId b).selector = 3#4 ++ b ∧
    (Instr.uLenLo b).selector = 4#4 ++ b ∧
    (s.ubx.state = UState.cls → exec (.uClass b) s = .next { s with
      ubx := { s.ubx with
        cls := b, ckA := s.ubx.ckA + b, ckB := s.ubx.ckB + (s.ubx.ckA + b), state := UState.id },
      evt := .none }) ∧
    (s.ubx.state = UState.id → exec (.uId b) s = .next { s with
      ubx := { s.ubx with
        id := b, ckA := s.ubx.ckA + b, ckB := s.ubx.ckB + (s.ubx.ckA + b), state := UState.lenLo },
      evt := .none }) ∧
    (s.ubx.state = UState.lenLo → exec (.uLenLo b) s = .next { s with
      ubx := { s.ubx with
        len := 0#8 ++ b, ckA := s.ubx.ckA + b, ckB := s.ubx.ckB + (s.ubx.ckA + b), state := UState.lenHi },
      evt := .none })

/-- 42_ubx_framer.md §2, the zero-length row: the payload state is skipped and no cell is written. -/
def Obligations.ULenHiZeroSkipsPayload : Prop :=
  ∀ (s : State) (b : Byte), s.ubx.state = UState.lenHi → b ++ s.ubx.len.extractLsb' 0 8 = 0#16 →
    exec (.uLenHiZero b) s = .next { s with
      ubx := { s.ubx with
        len := 0#16, ckA := s.ubx.ckA + b, ckB := s.ubx.ckB + (s.ubx.ckA + b), state := UState.cksumA },
      evt := .none }

/-- 42_ubx_framer.md §2, the overflow row: the event carries class, id and the capacity, not the declared length
(conflict C6); no cell is written. -/
def Obligations.ULenHiOverflowReportsCapacity : Prop :=
  ∀ (s : State) (b : Byte), s.ubx.state = UState.lenHi →
    s.cfg.ubxCap.val < (b ++ s.ubx.len.extractLsb' 0 8 : BitVec 16).toNat →
    exec (.uLenHiOverflow b) s = .next { s with
      ubx := { s.ubx with
        len := b ++ s.ubx.len.extractLsb' 0 8, ckA := s.ubx.ckA + b,
        ckB := s.ubx.ckB + (s.ubx.ckA + b), state := UState.idle },
      evt := .ubxError s.ubx.cls s.ubx.id (BitVec.ofNat 16 s.cfg.ubxCap.val) .bufferOverflow }

/-- 42_ubx_framer.md §2, the accepting row: the countdown starts at the declared length, which may equal the
capacity. -/
def Obligations.ULenHiPayloadStartsCountdown : Prop :=
  ∀ (s : State) (b : Byte), s.ubx.state = UState.lenHi →
    0 < (b ++ s.ubx.len.extractLsb' 0 8 : BitVec 16).toNat →
    (b ++ s.ubx.len.extractLsb' 0 8 : BitVec 16).toNat ≤ s.cfg.ubxCap.val →
    exec (.uLenHiPayload b) s = .next { s with
      ubx := { s.ubx with
        len := b ++ s.ubx.len.extractLsb' 0 8, cnt := b ++ s.ubx.len.extractLsb' 0 8,
        ckA := s.ubx.ckA + b, ckB := s.ubx.ckB + (s.ubx.ckA + b), state := UState.payload },
      evt := .none }

/-- R160: the byte is stored at `u_len - u_cnt`, accumulated and counted down; every other cell is unchanged. Under
R34's bounds the index lies in `0 .. u_len - 2`. -/
def Obligations.UPayloadByteStored : Prop :=
  ∀ (s : State) (b : Byte), s.ubx.state = UState.payload → 2 ≤ s.ubx.cnt.toNat →
    (s.ubx.len - s.ubx.cnt).toNat < s.cfg.ubxCap.val →
    (Instr.uPayloadByte b).selector = 6#4 ++ b ∧
    (s.ubx.cnt.toNat ≤ s.ubx.len.toNat → (s.ubx.len - s.ubx.cnt).toNat + 2 ≤ s.ubx.len.toNat) ∧
    ∃ t : State, exec (.uPayloadByte b) s = .next t ∧
      t = { s with
        ubx := { s.ubx with
          cnt := s.ubx.cnt - 1#16, ckA := s.ubx.ckA + b, ckB := s.ubx.ckB + (s.ubx.ckA + b),
          buf := t.ubx.buf, fresh := t.ubx.fresh },
        evt := .none } ∧
      (∀ a : Nat, readCell t.ubx.buf a =
        if a = (s.ubx.len - s.ubx.cnt).toNat then some b else readCell s.ubx.buf a) ∧
      (∀ a : Nat, a ∈ t.ubx.fresh ↔ a = (s.ubx.len - s.ubx.cnt).toNat ∨ a ∈ s.ubx.fresh)

/-- R161: the last payload byte is stored at `u_len - 1` and the framer goes to `CKSUM_A`. -/
def Obligations.UPayloadLastStored : Prop :=
  ∀ (s : State) (b : Byte), s.ubx.state = UState.payload → s.ubx.cnt = 1#16 →
    (s.ubx.len - 1#16).toNat < s.cfg.ubxCap.val →
    (Instr.uPayloadLast b).selector = 6#4 ++ b ∧
    ∃ t : State, exec (.uPayloadLast b) s = .next t ∧
      t = { s with
        ubx := { s.ubx with
          cnt := 0#16, ckA := s.ubx.ckA + b, ckB := s.ubx.ckB + (s.ubx.ckA + b), state := UState.cksumA,
          buf := t.ubx.buf, fresh := t.ubx.fresh },
        evt := .none } ∧
      (∀ a : Nat, readCell t.ubx.buf a =
        if a = (s.ubx.len - 1#16).toNat then some b else readCell s.ubx.buf a) ∧
      (∀ a : Nat, a ∈ t.ubx.fresh ↔ a = (s.ubx.len - 1#16).toNat ∨ a ∈ s.ubx.fresh)

/-- R162: the first checksum byte is stored, right or wrong, and not accumulated. -/
def Obligations.UCksumAStoresByte : Prop :=
  ∀ (s : State) (b : Byte), s.ubx.state = UState.cksumA →
    (Instr.uCksumA b).selector = 7#4 ++ b ∧
    exec (.uCksumA b) s = .next { s with
      ubx := { s.ubx with expA := b, state := UState.cksumB }, evt := .none }

/-- 42_ubx_framer.md §4, the match row: both received bytes equal the sums, the frame is reported with the cells
of `UBUF`, no cell is written. -/
def Obligations.UCksumBMatchDeliversFrame : Prop :=
  ∀ (s : State) (b : Byte), s.ubx.state = UState.cksumB → s.ubx.expA = s.ubx.ckA → b = s.ubx.ckB →
    exec (.uCksumBMatch b) s = .next { s with
      ubx := { s.ubx with state := UState.idle },
      evt := .ubxFrame s.ubx.cls s.ubx.id s.ubx.len
        ((List.range s.ubx.len.toNat).map (readCell s.ubx.buf)) }

/-- R164: either byte wrong; the event carries the declared length and no payload, which stays in `UBUF`. -/
def Obligations.UCksumBMismatchReportsError : Prop :=
  ∀ (s : State) (b : Byte), s.ubx.state = UState.cksumB → s.ubx.expA ≠ s.ubx.ckA ∨ b ≠ s.ubx.ckB →
    (Instr.uCksumBMismatch b).selector = 8#4 ++ b ∧
    exec (.uCksumBMismatch b) s = .next { s with
      ubx := { s.ubx with state := UState.idle },
      evt := .ubxError s.ubx.cls s.ubx.id s.ubx.len .badChecksum }

/-- R165: the four rows of the reserved UBX states fault with `ReservedState`, their encodings are the table's, and
no transition and no reset writes such a state. -/
def Obligations.UReservedStatesFault : Prop :=
  (∀ (s : State) (b : Byte), s.ubx.state = UState.payload → s.ubx.cnt = 0#16 →
    exec (.uPayloadZeroCount b) s = .fault .reservedState) ∧
  (∀ (s : State) (b : Byte), s.ubx.state = 9#4 →
    exec (.uReservedState9 b) s = .fault .reservedState) ∧
  (∀ (s : State) (x : BitVec 1) (b : Byte), s.ubx.state = 5#3 ++ x →
    exec (.uReservedState10To11 x b) s = .fault .reservedState) ∧
  (∀ (s : State) (x : BitVec 2) (b : Byte), s.ubx.state = 3#2 ++ x →
    exec (.uReservedState12To15 x b) s = .fault .reservedState) ∧
  (∀ (x : BitVec 1) (y : BitVec 2) (b : Byte),
    (Instr.uReservedState9 b).selector &&& 0xF00#12 = 0x900#12 ∧
    (Instr.uReservedState10To11 x b).selector &&& 0xE00#12 = 0xA00#12 ∧
    (Instr.uReservedState12To15 y b).selector &&& 0xC00#12 = 0xC00#12 ∧
    (Instr.uPayloadZeroCount b).selector &&& 0xF00#12 = 0x600#12) ∧
  (∀ (i : Instr) (s t : State), exec i s = .next t →
    s.ubx.state.toNat ≤ 8 ∧ (s.ubx.state = UState.payload → s.ubx.cnt ≠ 0#16) →
    t.ubx.state.toNat ≤ 8 ∧ (t.ubx.state = UState.payload → t.ubx.cnt ≠ 0#16)) ∧
  (∀ s : State, (applyReset s).ubx.state = UState.idle)

/-! ### The dispatcher's rows -/

/-- 43_dispatcher.md §1, the two start rows with idle framers: the start byte is both routed and consumed. -/
def Obligations.DIdleRoutesStartBytes : Prop :=
  (∀ s : State, s.dState = DState.idle → s.nmea.state = NState.idle →
    exec .dIdleNmea s = .next { s with
      dState := DState.inNmea,
      nmea := { s.nmea with ck := 0#8, len := 0#16, state := NState.collect }, evt := .none }) ∧
  (∀ s : State, s.dState = DState.idle → s.ubx.state = UState.idle →
    exec .dIdleUbx s = .next { s with
      dState := DState.inUbx, ubx := { s.ubx with state := UState.sync2 }, evt := .none })

/-- 43_dispatcher.md §1, the NMEA forwarding row: with R26's bound on `n_len` the forwarded transition completes, its
event is passed on, and the dispatcher is `IDLE` exactly when the framer is. -/
def Obligations.DFwdNmeaFollowsFramer : Prop :=
  ∀ (s : State) (b : Byte), s.dState = DState.inNmea → s.nmea.len.toNat ≤ s.cfg.nmeaCap.val →
    ∃ t : State, nmeaStep b s = .next t ∧
      exec (.dFwdNmea b) s = .next { t with
        dState := if t.nmea.state = NState.idle then DState.idle else DState.inNmea }

/-- 43_dispatcher.md §1, the UBX forwarding row: with a legal state code and R34's bounds in `PAYLOAD` the forwarded
transition completes, its event is passed on, and the dispatcher is `IDLE` exactly when the framer is. -/
def Obligations.DFwdUbxFollowsFramer : Prop :=
  ∀ (s : State) (b : Byte), s.dState = DState.inUbx → s.ubx.state.toNat ≤ 8 →
    (s.ubx.state = UState.payload → 1 ≤ s.ubx.cnt.toNat ∧ s.ubx.cnt.toNat ≤ s.ubx.len.toNat ∧
      s.ubx.len.toNat ≤ s.cfg.ubxCap.val) →
    ∃ t : State, ubxStep b s = .next t ∧
      exec (.dFwdUbx b) s = .next { t with
        dState := if t.ubx.state = UState.idle then DState.idle else DState.inUbx }

/-- R195: the reserved dispatcher state faults with `ReservedState`, its encoding is the table's, and no transition
and no reset writes code 3. -/
def Obligations.DReservedStateFaults : Prop :=
  (∀ (s : State) (b : Byte), s.dState = DState.reserved →
    exec (.dReservedState b) s = .fault .reservedState) ∧
  (∀ b : Byte, (Instr.dReservedState b).selector &&& 0x300#12 = 0x300#12) ∧
  (∀ (i : Instr) (s t : State), exec i s = .next t → s.dState ≠ DState.reserved →
    t.dState ≠ DState.reserved) ∧
  (∀ s : State, (applyReset s).dState = DState.idle)

/-! ### Frames -/

/-- A transition of the NMEA framer touches that framer and the event only (10_state.md §1, 43_dispatcher.md
§1). -/
def Obligations.NmeaRowsTouchOnlyNmea : Prop :=
  ∀ (i : Instr) (s t : State), i.unit = .nmea → exec i s = .next t →
    t = { s with nmea := t.nmea, evt := t.evt }

/-- A transition of the UBX framer touches that framer and the event only. -/
def Obligations.UbxRowsTouchOnlyUbx : Prop :=
  ∀ (i : Instr) (s t : State), i.unit = .ubx → exec i s = .next t →
    t = { s with ubx := t.ubx, evt := t.evt }

/-- A transition of the dispatcher touches `d_state`, the event and at most one framer (43_dispatcher.md
§2). -/
def Obligations.DispatcherRowsTouchOneFramer : Prop :=
  ∀ (i : Instr) (s t : State), i.unit = .dsp → exec i s = .next t →
    t = { s with dState := t.dState, nmea := t.nmea, evt := t.evt } ∨
    t = { s with dState := t.dState, ubx := t.ubx, evt := t.evt }

/-- 20_memory.md §2 and §6: no transition changes a cell of `NBUF` other than `n_len`, nor a cell of `UBUF` other
than `u_len - u_cnt`; a cell it changes exists; it changes `NBUF` or `UBUF`, not both. -/
def Obligations.OneCellWrittenAndItExists : Prop :=
  ∀ (i : Instr) (s t : State), exec i s = .next t →
    (∀ a : Nat, readCell t.nmea.buf a ≠ readCell s.nmea.buf a →
      a = s.nmea.len.toNat ∧ a ≤ s.cfg.nmeaCap.val) ∧
    (∀ a : Nat, readCell t.ubx.buf a ≠ readCell s.ubx.buf a →
      a = (s.ubx.len - s.ubx.cnt).toNat ∧ a < s.cfg.ubxCap.val) ∧
    (t.nmea.buf = s.nmea.buf ∨ t.ubx.buf = s.ubx.buf)

/-! ### Reset, idle cycles, reads and ports -/

/-- R240: a reset cycle sets every register, emits no event, writes no cell and consumes no byte. -/
def Obligations.ResetCycleClearsRegisters : Prop :=
  ∀ (s : State) (inValid : Bool) (b : Byte) (rest : List Stimulus),
    s.inputs = .cycle true inValid b :: rest →
    step s = .next { s with
      dState := DState.idle,
      nmea := { state := NState.idle, ck := 0x00#8, len := 0#16, exp := 0x00#8, buf := s.nmea.buf, fresh := [] },
      ubx := { state := UState.idle, ckA := 0x00#8, ckB := 0x00#8, cls := 0x00#8, id := 0x00#8, len := 0#16,
               cnt := 0#16, expA := 0x00#8, buf := s.ubx.buf, fresh := [] },
      evt := .none, inputs := rest }

/-- 70_reset_and_hazards.md §1: after power-up no cell has a value; a reset cycle leaves the cells as they are, and
after it a consumer read of any cell faults; a step makes a cell count as written since reset exactly when it writes
it, which is the cell its row addresses in a cycle with a byte, and only a reset makes cells stop counting; a read of a
cell that does not count faults. How "written since reset" is held (the lists `fresh`) is log entry 7. -/
def Obligations.ReadAfterResetFaults : Prop :=
  (∀ cfg : Config, (State.resetWith cfg).nmea.buf = [] ∧ (State.resetWith cfg).ubx.buf = [] ∧
    (State.resetWith cfg).nmea.fresh = [] ∧ (State.resetWith cfg).ubx.fresh = []) ∧
  (∀ (s : State) (inValid : Bool) (b : Byte) (rest : List Stimulus),
    s.inputs = .cycle true inValid b :: rest →
      ∃ t : State, step s = .next t ∧ t.inputs = rest ∧ t.nmea.buf = s.nmea.buf ∧ t.ubx.buf = s.ubx.buf ∧
        (∀ (a : Half) (more : List Stimulus), rest = .readNbuf a :: more → a.toNat ≤ s.cfg.nmeaCap.val →
          step t = .fault .unwrittenCell) ∧
        (∀ (a : Half) (more : List Stimulus), rest = .readUbuf a :: more → a.toNat < s.cfg.ubxCap.val →
          step t = .fault .unwrittenCell)) ∧
  (∀ s t : State, step s = .next t →
    (t.nmea.buf = s.nmea.buf ∧ t.nmea.fresh = s.nmea.fresh ∨
      (∃ v b rest, s.inputs = .cycle true v b :: rest) ∧ t.nmea.buf = s.nmea.buf ∧ t.nmea.fresh = [] ∨
      (∃ b rest, s.inputs = .cycle false true b :: rest ∧
        (s.nmea.state = NState.collect ∧ t.nmea.buf = writeCell s.nmea.buf s.nmea.len.toNat b ∨
          s.nmea.state = NState.cksumLo ∧ t.nmea.buf = writeCell s.nmea.buf s.nmea.len.toNat 0x00#8) ∧
        ∀ a : Nat, a ∈ t.nmea.fresh ↔ a = s.nmea.len.toNat ∨ a ∈ s.nmea.fresh)) ∧
    (t.ubx.buf = s.ubx.buf ∧ t.ubx.fresh = s.ubx.fresh ∨
      (∃ v b rest, s.inputs = .cycle true v b :: rest) ∧ t.ubx.buf = s.ubx.buf ∧ t.ubx.fresh = [] ∨
      (∃ b rest, s.inputs = .cycle false true b :: rest ∧ s.ubx.state = UState.payload ∧
        t.ubx.buf = writeCell s.ubx.buf (s.ubx.len - s.ubx.cnt).toNat b ∧
        ∀ a : Nat, a ∈ t.ubx.fresh ↔ a = (s.ubx.len - s.ubx.cnt).toNat ∨ a ∈ s.ubx.fresh))) ∧
  (∀ (s : State) (a : Half) (rest : List Stimulus),
    (s.inputs = .readNbuf a :: rest → a.toNat ≤ s.cfg.nmeaCap.val → a.toNat ∉ s.nmea.fresh →
      step s = .fault .unwrittenCell) ∧
    (s.inputs = .readUbuf a :: rest → a.toNat < s.cfg.ubxCap.val → a.toNat ∉ s.ubx.fresh →
      step s = .fault .unwrittenCell))

/-- 20_memory.md §3: a consumer read inside the range returns the cell's value and changes nothing but what was
read, outside the range it is refused, and on a cell not written since reset it faults. -/
def Obligations.ConsumerReadReturnsCell : Prop :=
  ∀ (s : State) (a : Half) (rest : List Stimulus),
    (s.inputs = .readNbuf a :: rest →
      (∀ v : Byte, a.toNat ≤ s.cfg.nmeaCap.val → a.toNat ∈ s.nmea.fresh →
        readCell s.nmea.buf a.toNat = some v →
        step s = .next { s with inputs := rest, nbRead := some v }) ∧
      (a.toNat ≤ s.cfg.nmeaCap.val → a.toNat ∉ s.nmea.fresh → step s = .fault .unwrittenCell) ∧
      (s.cfg.nmeaCap.val < a.toNat → step s = .refused .readOutOfRange)) ∧
    (s.inputs = .readUbuf a :: rest →
      (∀ v : Byte, a.toNat < s.cfg.ubxCap.val → a.toNat ∈ s.ubx.fresh →
        readCell s.ubx.buf a.toNat = some v →
        step s = .next { s with inputs := rest, ubRead := some v }) ∧
      (a.toNat < s.cfg.ubxCap.val → a.toNat ∉ s.ubx.fresh → step s = .fault .unwrittenCell) ∧
      (s.cfg.ubxCap.val ≤ a.toNat → step s = .refused .readOutOfRange))

/-- 60_exceptions.md §4 and 43_dispatcher.md §2: a cycle without a byte, presented or because no stimulus is left,
holds all state and presents no event (log entries 5 and 9). -/
def Obligations.CycleWithoutByteHolds : Prop :=
  (∀ (s : State) (b : Byte) (rest : List Stimulus), s.inputs = .cycle false false b :: rest →
    step s = .next { s with evt := .none, inputs := rest }) ∧
  (∀ s : State, s.inputs = [] → step s = .next { s with evt := .none })

/-- 30_encoding.md §5 and §6: for each kind of event the event ports show its code and its fields, they are 0 where a
field does not apply, never show a reserved code, and `in_ready` is 1. -/
def Obligations.PortsShowTheEvent : Prop :=
  ∀ s : State, s.ports.inReady = 1#1 ∧ (s.ports.evtValid = 0#1 ↔ s.evt = .none) ∧
    s.ports.evtKind.toNat ≤ 5 ∧
    (s.ports.evtKind ≠ 4#3 ∧ s.ports.evtKind ≠ 5#3 → s.ports.evtClass = 0#8 ∧ s.ports.evtId = 0#8) ∧
    (s.ports.evtKind ≠ 5#3 → s.ports.evtEkind = 0#1) ∧
    (s.evt = .none → s.ports.evtKind = 0#3 ∧ s.ports.evtLen = 0#16) ∧
    (∀ (n : Half) (p : List (Option Byte)), s.evt = .nmeaFrame n p →
      s.ports.evtKind = 1#3 ∧ s.ports.evtLen = n) ∧
    (∀ (n : Half) (p : List (Option Byte)), s.evt = .nmeaChecksumError n p →
      s.ports.evtKind = 2#3 ∧ s.ports.evtLen = n) ∧
    (∀ n : Half, s.evt = .nmeaOverflow n → s.ports.evtKind = 3#3 ∧ s.ports.evtLen = n) ∧
    (∀ (c i : Byte) (n : Half) (p : List (Option Byte)), s.evt = .ubxFrame c i n p →
      s.ports.evtKind = 4#3 ∧ s.ports.evtClass = c ∧ s.ports.evtId = i ∧ s.ports.evtLen = n) ∧
    (∀ (c i : Byte) (n : Half) (k : ErrorKind), s.evt = .ubxError c i n k →
      s.ports.evtKind = 5#3 ∧ s.ports.evtClass = c ∧ s.ports.evtId = i ∧ s.ports.evtLen = n ∧
      s.ports.evtEkind = if k = .badChecksum then 1#1 else 0#1) ∧
    s.ports.dStatus = s.dState ∧ s.ports.nStatus = s.nmea.state ∧ s.ports.uStatus = s.ubx.state

/-! ### Invariants -/

/-- The state after reset meets the invariant, whatever the capacities (log entry 1). -/
def Obligations.ResetMeetsInvariant : Prop :=
  Inv State.reset ∧ ∀ cfg : Config, Inv (State.resetWith cfg)

/-- Every step keeps the invariant: legal state codes, the coupling, `n_len <= NMEA_CAP`, R34's bounds, buffers in
canonical form with no cell that does not exist, and both accumulators equal to the checksum of what was taken
in. -/
def Obligations.StepKeepsInvariant : Prop :=
  ∀ s t : State, Inv s → step s = .next t → Inv t

/-- R197: reset meets the coupling invariant, every step keeps it, and in such a state (of legal code) the rows for
bytes outside a frame are never selected for a forwarded byte and at most one framer is out of `IDLE`. -/
def Obligations.CouplingHolds : Prop :=
  Coupled State.reset ∧
  (∀ s t : State, Coupled s → step s = .next t → Coupled t) ∧
  (∀ (s : State) (b : Byte), Coupled s → s.dState ≠ DState.reserved →
    ((s.dState = DState.inNmea ∨ b = dollar) → selects (.nIdleIgnore b) s = false) ∧
    ((s.dState = DState.inUbx ∨ b = sync1) → selects (.uIdleIgnore b) s = false) ∧
    (s.nmea.state = NState.idle ∨ s.ubx.state = UState.idle))

/-- 60_exceptions.md §1: in a state that meets the invariant no byte stops the block, and the invariant holds
after it. -/
def Obligations.NoByteStopsTheBlock : Prop :=
  ∀ (s : State) (b : Byte), Inv s → ∃ t : State, byteStep b s = .next t ∧ Inv t

/-- R210: after any error, reported by an event or a silent drop inside a frame, all three state registers are `IDLE`
and the next byte, whatever it is, is processed by the ordinary rules. -/
def Obligations.ErrorsLeaveBlockIdle : Prop :=
  ∀ (s t : State) (b : Byte), Inv s → byteStep b s = .next t →
    t.evt.isError = true ∨
      (s.dState = DState.inNmea ∧ (s.nmea.state = NState.cksumHi ∨ s.nmea.state = NState.cksumLo) ∧
        hexval b = none) ∨
      (s.dState = DState.inUbx ∧ s.ubx.state = UState.sync2 ∧ b ≠ sync2) →
    AllIdle t ∧ Inv t ∧ ∀ c : Byte, ∃ u : State, byteStep c t = .next u ∧ Inv u

/-- 30_encoding.md §2: in a state that meets the invariant a frame is delivered only when it is valid: its payload
is fully known, its length is the reported one, and the received checksum is the payload's. -/
def Obligations.DeliveredFramesAreValid : Prop :=
  ∀ (s t : State) (b : Byte), Inv s → byteStep b s = .next t →
    (∀ (n : Half) (p : List (Option Byte)), t.evt = .nmeaFrame n p →
      ∃ (q : List Byte) (v : BitVec 4), p = q.map some ∧ q.length = n.toNat ∧ n.toNat ≤ s.cfg.nmeaCap.val ∧
        star ∉ q ∧ hexval b = some v ∧ s.nmea.exp + v.setWidth 8 = nck q) ∧
    (∀ (c i : Byte) (n : Half) (p : List (Option Byte)), t.evt = .ubxFrame c i n p →
      ∃ q : List Byte, p = q.map some ∧ q.length = n.toNat ∧ n.toNat ≤ s.cfg.ubxCap.val ∧
        uck (ubxHeader c i n ++ q) = (s.ubx.expA, b))

/-- 20_memory.md §2 and §3: after a delivery the consumer can read every payload byte of the event from the buffer,
and the sentinel after an NMEA payload. -/
def Obligations.DeliveredPayloadIsReadable : Prop :=
  ∀ (s t : State) (b : Byte), Inv s → byteStep b s = .next t →
    (∀ (n : Half) (p : List (Option Byte)),
      t.evt = .nmeaFrame n p ∨ t.evt = .nmeaChecksumError n p →
      (∀ a : Nat, a < n.toNat → ∃ v : Byte, p[a]? = some (some v) ∧
        readNbuf t a = .next { t with nbRead := some v }) ∧
      readNbuf t n.toNat = .next { t with nbRead := some 0x00#8 }) ∧
    (∀ (c i : Byte) (n : Half) (p : List (Option Byte)), t.evt = .ubxFrame c i n p →
      ∀ a : Nat, a < n.toNat → ∃ v : Byte, p[a]? = some (some v) ∧
        readUbuf t a = .next { t with ubRead := some v })

/-- 70_reset_and_hazards.md §3: one byte after an NMEA event leaves `NBUF`, and six bytes after a UBX frame leave
`UBUF`, as the event saw them. -/
def Obligations.PayloadSurvivesItsLifetime : Prop :=
  ∀ (s t u : State) (b : Byte) (l : List Byte) (es : List Event), Coupled s → byteStep b s = .next t →
    blockFeed l t = some (es, u) →
    (∀ (n : Half) (p : List (Option Byte)),
      t.evt = .nmeaFrame n p ∨ t.evt = .nmeaChecksumError n p → l.length ≤ 1 →
      u.nmea.buf = t.nmea.buf) ∧
    (∀ (c i : Byte) (n : Half) (p : List (Option Byte)), t.evt = .ubxFrame c i n p → l.length ≤ 6 →
      u.ubx.buf = t.ubx.buf)

/-! ### Checksums -/

/-- R100: the 22 hex digits have their values, upper and lower case alike, and every other byte is invalid. -/
def Obligations.HexvalDecodesHexDigits : Prop :=
  ∀ b : Byte,
    (0x30#8 ≤ b ∧ b ≤ 0x39#8 → (hexval b).map BitVec.toNat = some (b.toNat - 0x30)) ∧
    (0x41#8 ≤ b ∧ b ≤ 0x46#8 → (hexval b).map BitVec.toNat = some (b.toNat - 0x41 + 10) ∧
      hexval (b + 0x20#8) = hexval b) ∧
    (0x61#8 ≤ b ∧ b ≤ 0x66#8 → (hexval b).map BitVec.toNat = some (b.toNat - 0x61 + 10)) ∧
    ((hexval b).isSome = true ↔ (0x30#8 ≤ b ∧ b ≤ 0x39#8) ∨ (0x41#8 ≤ b ∧ b ≤ 0x46#8) ∨
      (0x61#8 ≤ b ∧ b ≤ 0x66#8)) ∧
    ((List.range 256).filter fun n => (hexval (BitVec.ofNat 8 n)).isSome).length = 22

/-- 40_checksum.md §2: the NMEA checksum takes bytes one at a time, does not depend on their order, and a byte that
appears twice cancels. -/
def Obligations.NckOrderIrrelevant : Prop :=
  (∀ (p : List Byte) (b : Byte), nck (p ++ [b]) = nck p ^^^ b) ∧
  (∀ p q : List Byte, p.Perm q → nck p = nck q) ∧
  (∀ (p : List Byte) (b : Byte), nck (b :: b :: p) = nck p)

/-- 40_checksum.md §3: the closed form of the UBX checksum: the plain sum, and the sum with weights that fall from
the number of bytes to 1. -/
def Obligations.UckClosedForm : Prop :=
  ∀ l : List Byte,
    (uck l).1.toNat = (l.map BitVec.toNat).sum % 256 ∧
    (uck l).2.toNat =
      ((List.range l.length).map fun k => (l.length - k) * (l.getD k 0#8).toNat).sum % 256

/-- 40_checksum.md §4: replacing one byte by a different one changes `nck` and the `ckA` part of `uck`. -/
def Obligations.ChecksumsDetectOneByteChange : Prop :=
  ∀ (p q : List Byte) (x y : Byte), x ≠ y →
    nck (p ++ x :: q) ≠ nck (p ++ y :: q) ∧ (uck (p ++ x :: q)).1 ≠ (uck (p ++ y :: q)).1

/-! ### Whole frames and runs -/

/-- R131: what the NMEA framer, started in `IDLE`, makes of a frame: no event before its last byte,
then the frame or the checksum error by the frame's validity; an overflow on the first byte past the capacity;
nothing on a malformed digit; and `IDLE` in every case. -/
def Obligations.NmeaFrameRecognised : Prop :=
  ∀ (s : State) (p : List Byte), s.nmea.state = NState.idle → star ∉ p →
    (∀ (h1 h2 : Byte) (v1 v2 : BitVec 4), p.length ≤ s.cfg.nmeaCap.val →
      hexval h1 = some v1 → hexval h2 = some v2 →
      ∃ t : State, nmeaFeed (nmeaWire p h1 h2) s =
          some (List.replicate (p.length + 3) Event.none ++
            [if v1 ++ v2 = nck p then .nmeaFrame (BitVec.ofNat 16 p.length) (p.map some)
             else .nmeaChecksumError (BitVec.ofNat 16 p.length) (p.map some)], t) ∧
        t.nmea.state = NState.idle) ∧
    (∀ q : List Byte, p.length = s.cfg.nmeaCap.val + 1 →
      ∃ t : State, nmeaFeed (dollar :: p) s =
          some (List.replicate p.length Event.none ++
            [.nmeaOverflow (BitVec.ofNat 16 s.cfg.nmeaCap.val)], t) ∧
        t.nmea.state = NState.idle ∧
        nmeaFeed (dollar :: p ++ q) s =
          (nmeaFeed q t).map fun r =>
            (List.replicate p.length Event.none ++
              .nmeaOverflow (BitVec.ofNat 16 s.cfg.nmeaCap.val) :: r.1, r.2)) ∧
    (∀ h1 : Byte, p.length ≤ s.cfg.nmeaCap.val → hexval h1 = none →
      ∃ t : State, nmeaFeed (dollar :: p ++ [star, h1]) s =
          some (List.replicate (p.length + 3) Event.none, t) ∧ t.nmea.state = NState.idle) ∧
    (∀ h1 h2 : Byte, p.length ≤ s.cfg.nmeaCap.val → (hexval h1).isSome = true → hexval h2 = none →
      ∃ t : State, nmeaFeed (nmeaWire p h1 h2) s =
          some (List.replicate (p.length + 4) Event.none, t) ∧ t.nmea.state = NState.idle)

/-- 42_ubx_framer.md §6: what the UBX framer, started in `IDLE`, makes of a frame: no event before its last byte, then
the frame or the bad-checksum error by the frame's validity; an overflow on the length high byte when the declared
length exceeds the capacity; and `IDLE` in every case. -/
def Obligations.UbxFrameRecognised : Prop :=
  ∀ (s : State) (c i : Byte) (p : List Byte), s.ubx.state = UState.idle → p.length ≤ 65535 →
    (∀ x y : Byte, p.length ≤ s.cfg.ubxCap.val →
      ∃ t : State, ubxFeed (ubxWire c i p x y) s =
          some (List.replicate (p.length + 7) Event.none ++
            [if uck (ubxHeader c i (BitVec.ofNat 16 p.length) ++ p) = (x, y)
             then .ubxFrame c i (BitVec.ofNat 16 p.length) (p.map some)
             else .ubxError c i (BitVec.ofNat 16 p.length) .badChecksum], t) ∧
        t.ubx.state = UState.idle) ∧
    (s.cfg.ubxCap.val < p.length →
      ∃ t : State, ubxFeed ([sync1, sync2] ++ ubxHeader c i (BitVec.ofNat 16 p.length)) s =
          some (List.replicate 5 Event.none ++
            [.ubxError c i (BitVec.ofNat 16 s.cfg.ubxCap.val) .bufferOverflow], t) ∧
        t.ubx.state = UState.idle)

/-- 43_dispatcher.md: from the recovery state the whole block delivers every valid frame of either protocol that
fits, on its last byte, and is in the recovery state after it. -/
def Obligations.BlockDeliversValidFrames : Prop :=
  ∀ s : State, AllIdle s →
    (∀ (p : List Byte) (h1 h2 : Byte) (v1 v2 : BitVec 4), star ∉ p → p.length ≤ s.cfg.nmeaCap.val →
      hexval h1 = some v1 → hexval h2 = some v2 → v1 ++ v2 = nck p →
      ∃ t : State, blockFeed (nmeaWire p h1 h2) s =
          some (List.replicate (p.length + 3) Event.none ++
            [.nmeaFrame (BitVec.ofNat 16 p.length) (p.map some)], t) ∧ AllIdle t) ∧
    (∀ (c i : Byte) (p : List Byte) (x y : Byte), p.length ≤ s.cfg.ubxCap.val →
      uck (ubxHeader c i (BitVec.ofNat 16 p.length) ++ p) = (x, y) →
      ∃ t : State, blockFeed (ubxWire c i p x y) s =
          some (List.replicate (p.length + 7) Event.none ++
            [.ubxFrame c i (BitVec.ofNat 16 p.length) (p.map some)], t) ∧ AllIdle t)

/-- 43_dispatcher.md §2 and §3, 20_memory.md §3 and §7: in a stimulus stream without reset, cycles without a byte and
consumer reads, put anywhere between the bytes, change neither the events nor the registers, cells and capacities
reached: they are those of the bytes alone; a stream without reads never stops where its bytes alone do not; and every
read is observed, in order, with the value the cell holds after the bytes before it (how a run is observed is log
entry 17). -/
def Obligations.IdleCyclesAndReadsAreTransparent : Prop :=
  ∀ s : State, (∀ x ∈ s.inputs, x.isReset = false) →
    (∀ o : Observation, observe s = some o →
      o.bytes = (bytesOf s.inputs).length ∧
      (∃ (es : List Event) (t : State),
        blockFeed (bytesOf s.inputs) { s with inputs := [] } = some (es, t) ∧ o.events = observation 1 es ∧
        o.final = { t with evt := o.final.evt, nbRead := o.final.nbRead, ubRead := o.final.ubRead }) ∧
      (o.reads.map fun r => (r.boundary, r.buffer, r.index)) = readsAsked 0 s.inputs ∧
      ∀ r ∈ o.reads, ∃ (es : List Event) (u : State),
        blockFeed ((bytesOf s.inputs).take r.boundary) { s with inputs := [] } = some (es, u) ∧
        u.cell r.buffer r.index = some r.value) ∧
    ((∀ x ∈ s.inputs, x.isRead = false) →
      (blockFeed (bytesOf s.inputs) { s with inputs := [] }).isSome = true → (observe s).isSome = true)

/-- The host's run over the cycles of a byte stream ends where feeding the stream ends (log entry 5). -/
def Obligations.RunOfCyclesIsFeeding : Prop :=
  ∀ (l : List Byte) (s t : State) (es : List Event), s.inputs = byteCycles l →
    blockFeed l { s with inputs := [] } = some (es, t) → Host.Core.run core l.length s = .next t

/-- 70_reset_and_hazards.md §1: from the recovery state the events do not depend on what the data registers and the
cells hold: two such states with the same capacities give the same events on every byte sequence. -/
def Obligations.DataRegistersUnobservableWhenIdle : Prop :=
  ∀ (s t : State) (l : List Byte), AllIdle s → AllIdle t → s.cfg = t.cfg →
    ∃ (es : List Event) (u v : State), blockFeed l s = some (es, u) ∧ blockFeed l t = some (es, v)
end

