-- ==== Sys2Proof/Laws/Encoding.lean ====
section
/-! SUPPORT. What the places of a transition word hold. -/

namespace Sys2Proof

/-- The bits of a transition word. -/
theorem getLsbD_transitionWord (c : BitVec 2) (st : BitVec 6) (b : Byte) (i : Nat) :
    (transitionWord c st b).getLsbD i =
      if i < 8 then b.getLsbD i else if i < 14 then st.getLsbD (i - 8) else c.getLsbD (i - 14) := by
  show ((c ++ st ++ b : BitVec (2 + 6 + 8)).getLsbD i) = _
  rw [BitVec.getLsbD_append]
  by_cases h : i < 8
  · simp [h]
  · rw [BitVec.getLsbD_append]
    by_cases h' : i < 14
    · simp [h, h', show i - 8 < 6 by omega]
    · simp [h, h', show ¬ i - 8 < 6 by omega, show i - 8 - 6 = i - 14 by omega]

@[simp] theorem wordByte_transitionWord (c : BitVec 2) (st : BitVec 6) (b : Byte) :
    wordByte (transitionWord c st b) = b := by
  apply BitVec.eq_of_getLsbD_eq
  intro i h
  simp [wordByte, getLsbD_transitionWord, h]

@[simp] theorem wordState_transitionWord (c : BitVec 2) (st : BitVec 6) (b : Byte) :
    wordState (transitionWord c st b) = st := by
  apply BitVec.eq_of_getLsbD_eq
  intro i h
  simp [wordState, getLsbD_transitionWord, h, show 8 + i < 14 by omega]

@[simp] theorem wordCond_transitionWord (c : BitVec 2) (st : BitVec 6) (b : Byte) :
    wordCond (transitionWord c st b) = c := by
  apply BitVec.eq_of_getLsbD_eq
  intro i h
  simp [wordCond, getLsbD_transitionWord, h, show ¬ 14 + i < 8 by omega]

/-- The places of a transition's own word. -/
theorem encode_places (i : Instr) :
    wordByte (encode i) = i.byte ∧ wordState (encode i) = statePlace i.unit i.stateCode ∧
      wordCond (encode i) = i.condPlace := by
  simp [encode]

/-- A word is its three places. -/
theorem transitionWord_places (w : BitVec 16) :
    transitionWord (wordCond w) (wordState w) (wordByte w) = w := by
  apply BitVec.eq_of_getLsbD_eq
  intro i h
  rw [getLsbD_transitionWord]
  simp only [wordCond, wordState, wordByte, BitVec.getLsbD_extractLsb']
  by_cases h8 : i < 8
  · simp [h8]
  · by_cases h14 : i < 14
    · simp [h8, h14, show i - 8 < 6 by omega, show 8 + (i - 8) = i by omega]
    · simp [h8, h14, show i - 14 < 2 by omega, show 14 + (i - 14) = i by omega]

end Sys2Proof
end

