-- ==== Sys2Proof/Laws/State.lean ====
section
/-! SUPPORT. One lemma per field for every update of the state, so that no proof unfolds a record update. -/

namespace Sys2Proof.Machine

/-! ### `State.emit` -/

@[simp] theorem State.emit_cfg (s : State) (e : Event) : (s.emit e).cfg = s.cfg := rfl
@[simp] theorem State.emit_dState (s : State) (e : Event) : (s.emit e).dState = s.dState := rfl
@[simp] theorem State.emit_nmea (s : State) (e : Event) : (s.emit e).nmea = s.nmea := rfl
@[simp] theorem State.emit_ubx (s : State) (e : Event) : (s.emit e).ubx = s.ubx := rfl
@[simp] theorem State.emit_evt (s : State) (e : Event) : (s.emit e).evt = e := rfl
@[simp] theorem State.emit_inputs (s : State) (e : Event) : (s.emit e).inputs = s.inputs := rfl
@[simp] theorem State.emit_nbRead (s : State) (e : Event) : (s.emit e).nbRead = s.nbRead := rfl
@[simp] theorem State.emit_ubRead (s : State) (e : Event) : (s.emit e).ubRead = s.ubRead := rfl
@[simp] theorem State.emit_nmeaCap (s : State) (e : Event) : (s.emit e).nmeaCap = s.nmeaCap := rfl
@[simp] theorem State.emit_ubxCap (s : State) (e : Event) : (s.emit e).ubxCap = s.ubxCap := rfl

/-! ### `State.gotoD` -/

@[simp] theorem State.gotoD_cfg (s : State) (c : BitVec 2) : (s.gotoD c).cfg = s.cfg := rfl
@[simp] theorem State.gotoD_dState (s : State) (c : BitVec 2) : (s.gotoD c).dState = c := rfl
@[simp] theorem State.gotoD_nmea (s : State) (c : BitVec 2) : (s.gotoD c).nmea = s.nmea := rfl
@[simp] theorem State.gotoD_ubx (s : State) (c : BitVec 2) : (s.gotoD c).ubx = s.ubx := rfl
@[simp] theorem State.gotoD_evt (s : State) (c : BitVec 2) : (s.gotoD c).evt = s.evt := rfl
@[simp] theorem State.gotoD_inputs (s : State) (c : BitVec 2) : (s.gotoD c).inputs = s.inputs := rfl
@[simp] theorem State.gotoD_nbRead (s : State) (c : BitVec 2) : (s.gotoD c).nbRead = s.nbRead := rfl
@[simp] theorem State.gotoD_ubRead (s : State) (c : BitVec 2) : (s.gotoD c).ubRead = s.ubRead := rfl
@[simp] theorem State.gotoD_nmeaCap (s : State) (c : BitVec 2) : (s.gotoD c).nmeaCap = s.nmeaCap := rfl
@[simp] theorem State.gotoD_ubxCap (s : State) (c : BitVec 2) : (s.gotoD c).ubxCap = s.ubxCap := rfl

/-! ### `State.setNmea` -/

@[simp] theorem State.setNmea_cfg (s : State) (n : NmeaFramer) : (s.setNmea n).cfg = s.cfg := rfl
@[simp] theorem State.setNmea_dState (s : State) (n : NmeaFramer) : (s.setNmea n).dState = s.dState := rfl
@[simp] theorem State.setNmea_nmea (s : State) (n : NmeaFramer) : (s.setNmea n).nmea = n := rfl
@[simp] theorem State.setNmea_ubx (s : State) (n : NmeaFramer) : (s.setNmea n).ubx = s.ubx := rfl
@[simp] theorem State.setNmea_evt (s : State) (n : NmeaFramer) : (s.setNmea n).evt = s.evt := rfl
@[simp] theorem State.setNmea_inputs (s : State) (n : NmeaFramer) : (s.setNmea n).inputs = s.inputs := rfl
@[simp] theorem State.setNmea_nbRead (s : State) (n : NmeaFramer) : (s.setNmea n).nbRead = s.nbRead := rfl
@[simp] theorem State.setNmea_ubRead (s : State) (n : NmeaFramer) : (s.setNmea n).ubRead = s.ubRead := rfl
@[simp] theorem State.setNmea_nmeaCap (s : State) (n : NmeaFramer) : (s.setNmea n).nmeaCap = s.nmeaCap := rfl
@[simp] theorem State.setNmea_ubxCap (s : State) (n : NmeaFramer) : (s.setNmea n).ubxCap = s.ubxCap := rfl

/-! ### `State.setUbx` -/

@[simp] theorem State.setUbx_cfg (s : State) (u : UbxFramer) : (s.setUbx u).cfg = s.cfg := rfl
@[simp] theorem State.setUbx_dState (s : State) (u : UbxFramer) : (s.setUbx u).dState = s.dState := rfl
@[simp] theorem State.setUbx_nmea (s : State) (u : UbxFramer) : (s.setUbx u).nmea = s.nmea := rfl
@[simp] theorem State.setUbx_ubx (s : State) (u : UbxFramer) : (s.setUbx u).ubx = u := rfl
@[simp] theorem State.setUbx_evt (s : State) (u : UbxFramer) : (s.setUbx u).evt = s.evt := rfl
@[simp] theorem State.setUbx_inputs (s : State) (u : UbxFramer) : (s.setUbx u).inputs = s.inputs := rfl
@[simp] theorem State.setUbx_nbRead (s : State) (u : UbxFramer) : (s.setUbx u).nbRead = s.nbRead := rfl
@[simp] theorem State.setUbx_ubRead (s : State) (u : UbxFramer) : (s.setUbx u).ubRead = s.ubRead := rfl
@[simp] theorem State.setUbx_nmeaCap (s : State) (u : UbxFramer) : (s.setUbx u).nmeaCap = s.nmeaCap := rfl
@[simp] theorem State.setUbx_ubxCap (s : State) (u : UbxFramer) : (s.setUbx u).ubxCap = s.ubxCap := rfl

/-! ### `State.setInputs` -/

@[simp] theorem State.setInputs_cfg (s : State) (l : List Stimulus) : (s.setInputs l).cfg = s.cfg := rfl
@[simp] theorem State.setInputs_dState (s : State) (l : List Stimulus) : (s.setInputs l).dState = s.dState := rfl
@[simp] theorem State.setInputs_nmea (s : State) (l : List Stimulus) : (s.setInputs l).nmea = s.nmea := rfl
@[simp] theorem State.setInputs_ubx (s : State) (l : List Stimulus) : (s.setInputs l).ubx = s.ubx := rfl
@[simp] theorem State.setInputs_evt (s : State) (l : List Stimulus) : (s.setInputs l).evt = s.evt := rfl
@[simp] theorem State.setInputs_inputs (s : State) (l : List Stimulus) : (s.setInputs l).inputs = l := rfl
@[simp] theorem State.setInputs_nbRead (s : State) (l : List Stimulus) : (s.setInputs l).nbRead = s.nbRead := rfl
@[simp] theorem State.setInputs_ubRead (s : State) (l : List Stimulus) : (s.setInputs l).ubRead = s.ubRead := rfl
@[simp] theorem State.setInputs_nmeaCap (s : State) (l : List Stimulus) : (s.setInputs l).nmeaCap = s.nmeaCap := rfl
@[simp] theorem State.setInputs_ubxCap (s : State) (l : List Stimulus) : (s.setInputs l).ubxCap = s.ubxCap := rfl

/-! ### `State.setNbRead` -/

@[simp] theorem State.setNbRead_cfg (s : State) (v : Byte) : (s.setNbRead v).cfg = s.cfg := rfl
@[simp] theorem State.setNbRead_dState (s : State) (v : Byte) : (s.setNbRead v).dState = s.dState := rfl
@[simp] theorem State.setNbRead_nmea (s : State) (v : Byte) : (s.setNbRead v).nmea = s.nmea := rfl
@[simp] theorem State.setNbRead_ubx (s : State) (v : Byte) : (s.setNbRead v).ubx = s.ubx := rfl
@[simp] theorem State.setNbRead_evt (s : State) (v : Byte) : (s.setNbRead v).evt = s.evt := rfl
@[simp] theorem State.setNbRead_inputs (s : State) (v : Byte) : (s.setNbRead v).inputs = s.inputs := rfl
@[simp] theorem State.setNbRead_nbRead (s : State) (v : Byte) : (s.setNbRead v).nbRead = some v := rfl
@[simp] theorem State.setNbRead_ubRead (s : State) (v : Byte) : (s.setNbRead v).ubRead = s.ubRead := rfl
@[simp] theorem State.setNbRead_nmeaCap (s : State) (v : Byte) : (s.setNbRead v).nmeaCap = s.nmeaCap := rfl
@[simp] theorem State.setNbRead_ubxCap (s : State) (v : Byte) : (s.setNbRead v).ubxCap = s.ubxCap := rfl

/-! ### `State.setUbRead` -/

@[simp] theorem State.setUbRead_cfg (s : State) (v : Byte) : (s.setUbRead v).cfg = s.cfg := rfl
@[simp] theorem State.setUbRead_dState (s : State) (v : Byte) : (s.setUbRead v).dState = s.dState := rfl
@[simp] theorem State.setUbRead_nmea (s : State) (v : Byte) : (s.setUbRead v).nmea = s.nmea := rfl
@[simp] theorem State.setUbRead_ubx (s : State) (v : Byte) : (s.setUbRead v).ubx = s.ubx := rfl
@[simp] theorem State.setUbRead_evt (s : State) (v : Byte) : (s.setUbRead v).evt = s.evt := rfl
@[simp] theorem State.setUbRead_inputs (s : State) (v : Byte) : (s.setUbRead v).inputs = s.inputs := rfl
@[simp] theorem State.setUbRead_nbRead (s : State) (v : Byte) : (s.setUbRead v).nbRead = s.nbRead := rfl
@[simp] theorem State.setUbRead_ubRead (s : State) (v : Byte) : (s.setUbRead v).ubRead = some v := rfl
@[simp] theorem State.setUbRead_nmeaCap (s : State) (v : Byte) : (s.setUbRead v).nmeaCap = s.nmeaCap := rfl
@[simp] theorem State.setUbRead_ubxCap (s : State) (v : Byte) : (s.setUbRead v).ubxCap = s.ubxCap := rfl

/-! ### Stores and the accumulators of the framers -/

@[simp] theorem NmeaFramer.store_state (n : NmeaFramer) (a : Nat) (v : Byte) : (n.store a v).state = n.state := rfl
@[simp] theorem NmeaFramer.store_ck (n : NmeaFramer) (a : Nat) (v : Byte) : (n.store a v).ck = n.ck := rfl
@[simp] theorem NmeaFramer.store_len (n : NmeaFramer) (a : Nat) (v : Byte) : (n.store a v).len = n.len := rfl
@[simp] theorem NmeaFramer.store_exp (n : NmeaFramer) (a : Nat) (v : Byte) : (n.store a v).exp = n.exp := rfl
@[simp] theorem NmeaFramer.store_buf (n : NmeaFramer) (a : Nat) (v : Byte) : (n.store a v).buf = writeCell n.buf a v := rfl
@[simp] theorem NmeaFramer.store_fresh (n : NmeaFramer) (a : Nat) (v : Byte) : (n.store a v).fresh = markFresh n.fresh a := rfl

@[simp] theorem UbxFramer.store_state (u : UbxFramer) (a : Nat) (v : Byte) : (u.store a v).state = u.state := rfl
@[simp] theorem UbxFramer.store_ckA (u : UbxFramer) (a : Nat) (v : Byte) : (u.store a v).ckA = u.ckA := rfl
@[simp] theorem UbxFramer.store_ckB (u : UbxFramer) (a : Nat) (v : Byte) : (u.store a v).ckB = u.ckB := rfl
@[simp] theorem UbxFramer.store_cls (u : UbxFramer) (a : Nat) (v : Byte) : (u.store a v).cls = u.cls := rfl
@[simp] theorem UbxFramer.store_id (u : UbxFramer) (a : Nat) (v : Byte) : (u.store a v).id = u.id := rfl
@[simp] theorem UbxFramer.store_len (u : UbxFramer) (a : Nat) (v : Byte) : (u.store a v).len = u.len := rfl
@[simp] theorem UbxFramer.store_cnt (u : UbxFramer) (a : Nat) (v : Byte) : (u.store a v).cnt = u.cnt := rfl
@[simp] theorem UbxFramer.store_expA (u : UbxFramer) (a : Nat) (v : Byte) : (u.store a v).expA = u.expA := rfl
@[simp] theorem UbxFramer.store_buf (u : UbxFramer) (a : Nat) (v : Byte) : (u.store a v).buf = writeCell u.buf a v := rfl
@[simp] theorem UbxFramer.store_fresh (u : UbxFramer) (a : Nat) (v : Byte) : (u.store a v).fresh = markFresh u.fresh a := rfl

@[simp] theorem UbxFramer.absorb_state (u : UbxFramer) (b : Byte) : (u.absorb b).state = u.state := rfl
@[simp] theorem UbxFramer.absorb_ckA (u : UbxFramer) (b : Byte) : (u.absorb b).ckA = u.ckA + b := rfl
@[simp] theorem UbxFramer.absorb_ckB (u : UbxFramer) (b : Byte) : (u.absorb b).ckB = u.ckB + (u.ckA + b) := rfl
@[simp] theorem UbxFramer.absorb_cls (u : UbxFramer) (b : Byte) : (u.absorb b).cls = u.cls := rfl
@[simp] theorem UbxFramer.absorb_id (u : UbxFramer) (b : Byte) : (u.absorb b).id = u.id := rfl
@[simp] theorem UbxFramer.absorb_len (u : UbxFramer) (b : Byte) : (u.absorb b).len = u.len := rfl
@[simp] theorem UbxFramer.absorb_cnt (u : UbxFramer) (b : Byte) : (u.absorb b).cnt = u.cnt := rfl
@[simp] theorem UbxFramer.absorb_expA (u : UbxFramer) (b : Byte) : (u.absorb b).expA = u.expA := rfl
@[simp] theorem UbxFramer.absorb_buf (u : UbxFramer) (b : Byte) : (u.absorb b).buf = u.buf := rfl
@[simp] theorem UbxFramer.absorb_fresh (u : UbxFramer) (b : Byte) : (u.absorb b).fresh = u.fresh := rfl

/-! ### Aborts, reset and hold -/

@[simp] theorem abortNmea_cfg (s : State) (e : Event) : (abortNmea s e).cfg = s.cfg := rfl
@[simp] theorem abortNmea_dState (s : State) (e : Event) : (abortNmea s e).dState = s.dState := rfl
@[simp] theorem abortNmea_nmea (s : State) (e : Event) : (abortNmea s e).nmea = { s.nmea with state := NState.idle } := rfl
@[simp] theorem abortNmea_ubx (s : State) (e : Event) : (abortNmea s e).ubx = s.ubx := rfl
@[simp] theorem abortNmea_evt (s : State) (e : Event) : (abortNmea s e).evt = e := rfl
@[simp] theorem abortNmea_inputs (s : State) (e : Event) : (abortNmea s e).inputs = s.inputs := rfl
@[simp] theorem abortNmea_nbRead (s : State) (e : Event) : (abortNmea s e).nbRead = s.nbRead := rfl
@[simp] theorem abortNmea_ubRead (s : State) (e : Event) : (abortNmea s e).ubRead = s.ubRead := rfl

@[simp] theorem abortUbx_cfg (s : State) (e : Event) : (abortUbx s e).cfg = s.cfg := rfl
@[simp] theorem abortUbx_dState (s : State) (e : Event) : (abortUbx s e).dState = s.dState := rfl
@[simp] theorem abortUbx_nmea (s : State) (e : Event) : (abortUbx s e).nmea = s.nmea := rfl
@[simp] theorem abortUbx_ubx (s : State) (e : Event) : (abortUbx s e).ubx = { s.ubx with state := UState.idle } := rfl
@[simp] theorem abortUbx_evt (s : State) (e : Event) : (abortUbx s e).evt = e := rfl
@[simp] theorem abortUbx_inputs (s : State) (e : Event) : (abortUbx s e).inputs = s.inputs := rfl
@[simp] theorem abortUbx_nbRead (s : State) (e : Event) : (abortUbx s e).nbRead = s.nbRead := rfl
@[simp] theorem abortUbx_ubRead (s : State) (e : Event) : (abortUbx s e).ubRead = s.ubRead := rfl

@[simp] theorem applyReset_cfg (s : State) : (applyReset s).cfg = s.cfg := rfl
@[simp] theorem applyReset_dState (s : State) : (applyReset s).dState = DState.idle := rfl
@[simp] theorem applyReset_nmea (s : State) : (applyReset s).nmea = NmeaFramer.atReset s.nmea.buf := rfl
@[simp] theorem applyReset_ubx (s : State) : (applyReset s).ubx = UbxFramer.atReset s.ubx.buf := rfl
@[simp] theorem applyReset_evt (s : State) : (applyReset s).evt = Event.none := rfl
@[simp] theorem applyReset_inputs (s : State) : (applyReset s).inputs = s.inputs := rfl
@[simp] theorem applyReset_nbRead (s : State) : (applyReset s).nbRead = s.nbRead := rfl
@[simp] theorem applyReset_ubRead (s : State) : (applyReset s).ubRead = s.ubRead := rfl

@[simp] theorem holdCycle_cfg (s : State) : (holdCycle s).cfg = s.cfg := rfl
@[simp] theorem holdCycle_dState (s : State) : (holdCycle s).dState = s.dState := rfl
@[simp] theorem holdCycle_nmea (s : State) : (holdCycle s).nmea = s.nmea := rfl
@[simp] theorem holdCycle_ubx (s : State) : (holdCycle s).ubx = s.ubx := rfl
@[simp] theorem holdCycle_evt (s : State) : (holdCycle s).evt = Event.none := rfl
@[simp] theorem holdCycle_inputs (s : State) : (holdCycle s).inputs = s.inputs := rfl
@[simp] theorem holdCycle_nbRead (s : State) : (holdCycle s).nbRead = s.nbRead := rfl
@[simp] theorem holdCycle_ubRead (s : State) : (holdCycle s).ubRead = s.ubRead := rfl

/-! ### The state after reset -/

@[simp] theorem State.resetWith_cfg (cfg : Config) : (State.resetWith cfg).cfg = cfg := rfl
@[simp] theorem State.resetWith_dState (cfg : Config) : (State.resetWith cfg).dState = DState.idle := rfl
@[simp] theorem State.resetWith_nmea (cfg : Config) : (State.resetWith cfg).nmea = NmeaFramer.atReset [] := rfl
@[simp] theorem State.resetWith_ubx (cfg : Config) : (State.resetWith cfg).ubx = UbxFramer.atReset [] := rfl
@[simp] theorem State.resetWith_evt (cfg : Config) : (State.resetWith cfg).evt = Event.none := rfl
@[simp] theorem State.resetWith_inputs (cfg : Config) : (State.resetWith cfg).inputs = [] := rfl
@[simp] theorem State.resetWith_nbRead (cfg : Config) : (State.resetWith cfg).nbRead = Option.none := rfl
@[simp] theorem State.resetWith_ubRead (cfg : Config) : (State.resetWith cfg).ubRead = Option.none := rfl

@[simp] theorem NmeaFramer.atReset_state (m : Memory) : (NmeaFramer.atReset m).state = NState.idle := rfl
@[simp] theorem NmeaFramer.atReset_ck (m : Memory) : (NmeaFramer.atReset m).ck = 0#8 := rfl
@[simp] theorem NmeaFramer.atReset_len (m : Memory) : (NmeaFramer.atReset m).len = 0#16 := rfl
@[simp] theorem NmeaFramer.atReset_exp (m : Memory) : (NmeaFramer.atReset m).exp = 0#8 := rfl
@[simp] theorem NmeaFramer.atReset_buf (m : Memory) : (NmeaFramer.atReset m).buf = m := rfl
@[simp] theorem NmeaFramer.atReset_fresh (m : Memory) : (NmeaFramer.atReset m).fresh = [] := rfl
@[simp] theorem UbxFramer.atReset_state (m : Memory) : (UbxFramer.atReset m).state = UState.idle := rfl
@[simp] theorem UbxFramer.atReset_ckA (m : Memory) : (UbxFramer.atReset m).ckA = 0#8 := rfl
@[simp] theorem UbxFramer.atReset_ckB (m : Memory) : (UbxFramer.atReset m).ckB = 0#8 := rfl
@[simp] theorem UbxFramer.atReset_cls (m : Memory) : (UbxFramer.atReset m).cls = 0#8 := rfl
@[simp] theorem UbxFramer.atReset_id (m : Memory) : (UbxFramer.atReset m).id = 0#8 := rfl
@[simp] theorem UbxFramer.atReset_len (m : Memory) : (UbxFramer.atReset m).len = 0#16 := rfl
@[simp] theorem UbxFramer.atReset_cnt (m : Memory) : (UbxFramer.atReset m).cnt = 0#16 := rfl
@[simp] theorem UbxFramer.atReset_expA (m : Memory) : (UbxFramer.atReset m).expA = 0#8 := rfl
@[simp] theorem UbxFramer.atReset_buf (m : Memory) : (UbxFramer.atReset m).buf = m := rfl
@[simp] theorem UbxFramer.atReset_fresh (m : Memory) : (UbxFramer.atReset m).fresh = [] := rfl

end Sys2Proof.Machine
end

