-- ==== Sys2Proof/Laws/Memory.lean ====
section
/-! SUPPORT. The laws of the buffers: a read after a write, the canonical form, the existing cells, and
payload slices. -/

namespace Sys2Proof.Machine

/-- A read after a write gives the byte written there and leaves every other cell alone. -/
theorem readCell_writeCell (m : Memory) (a c : Nat) (v : Byte) :
    readCell (writeCell m a v) c = if c = a then some v else readCell m c := by
  induction m with
  | nil => simp [writeCell, readCell, eq_comm]
  | cons p m ih =>
    obtain ⟨k, x⟩ := p
    simp only [writeCell]
    split
    · simp [readCell, eq_comm]
    · split
      · subst_vars
        by_cases h : k = c
        · simp [readCell, h]
        · simp [readCell, h, Ne.symm h]
      · by_cases h : k = c
        · subst h
          simp [readCell, Ne.symm ‹¬a = k›]
        · simp [readCell, h, ih]

@[simp] theorem readCell_writeCell_self (m : Memory) (a : Nat) (v : Byte) :
    readCell (writeCell m a v) a = some v := by simp [readCell_writeCell]

theorem readCell_writeCell_ne (m : Memory) {a c : Nat} (v : Byte) (h : c ≠ a) :
    readCell (writeCell m a v) c = readCell m c := by simp [readCell_writeCell, h]

/-- The cells of a memory after a write: the one written and old ones. -/
theorem mem_writeCell {m : Memory} {a : Nat} {v : Byte} {c : Host.Cell} (h : c ∈ writeCell m a v) :
    c = (a, v) ∨ c ∈ m := by
  induction m with
  | nil => simpa [writeCell] using h
  | cons p m ih =>
    obtain ⟨k, x⟩ := p
    simp only [writeCell] at h
    split at h
    · simpa using h
    · split at h
      · rcases List.mem_cons.1 h with h | h
        · exact .inl h
        · exact .inr (List.mem_cons_of_mem _ h)
      · rcases List.mem_cons.1 h with h | h
        · exact .inr (h ▸ List.mem_cons_self)
        · rcases ih h with h | h
          · exact .inl h
          · exact .inr (List.mem_cons_of_mem _ h)

/-- The canonical form says that the indices rise strictly. -/
theorem Memory.wf_iff_pairwise (m : Memory) :
    Memory.wf m = true ↔ m.Pairwise (fun c d => c.1 < d.1) := by
  induction m with
  | nil => simp [Memory.wf]
  | cons p m ih =>
    cases m with
    | nil => simp [Memory.wf]
    | cons q m =>
      obtain ⟨a, x⟩ := p
      obtain ⟨b, y⟩ := q
      simp only [Memory.wf, Bool.and_eq_true, decide_eq_true_eq, ih]
      constructor
      · rintro ⟨h, hp⟩
        refine List.pairwise_cons.2 ⟨fun c hc => ?_, hp⟩
        rcases List.mem_cons.1 hc with rfl | hc
        · exact h
        · exact h.trans ((List.pairwise_cons.1 hp).1 c hc)
      · intro h
        exact ⟨(List.pairwise_cons.1 h).1 _ List.mem_cons_self, (List.pairwise_cons.1 h).2⟩

/-- A write keeps the canonical form. -/
theorem Memory.wf_writeCell {m : Memory} (h : Memory.wf m = true) (a : Nat) (v : Byte) :
    Memory.wf (writeCell m a v) = true := by
  rw [Memory.wf_iff_pairwise] at h ⊢
  induction m with
  | nil => simp [writeCell]
  | cons p m ih =>
    obtain ⟨k, x⟩ := p
    obtain ⟨hk, hm⟩ := List.pairwise_cons.1 h
    simp only [writeCell]
    split
    · refine List.pairwise_cons.2 ⟨fun c hc => ?_, h⟩
      rcases List.mem_cons.1 hc with rfl | hc
      · assumption
      · exact Nat.lt_trans ‹a < k› (hk c hc)
    · split
      · subst_vars
        exact List.pairwise_cons.2 ⟨hk, hm⟩
      · refine List.pairwise_cons.2 ⟨fun c hc => ?_, ih hm⟩
        rcases mem_writeCell hc with rfl | hc
        · show k < a
          omega
        · exact hk c hc

/-- The buffers of the state after reset are in canonical form. -/
theorem State.reset_buffers_wf :
    Memory.wf State.reset.nmea.buf = true ∧ Memory.wf State.reset.ubx.buf = true := ⟨rfl, rfl⟩

/-- Which indices count as written after one more. -/
@[simp] theorem mem_markFresh (l : List Nat) (a c : Nat) : c ∈ markFresh l a ↔ c = a ∨ c ∈ l := by
  induction l with
  | nil => simp [markFresh]
  | cons k l ih =>
    simp only [markFresh]
    split
    · simp
    · split
      · subst_vars; simp
      · simp [ih]; tauto

@[simp] theorem length_slice (m : Memory) (n : Nat) : (slice m n).length = n := by simp [slice]

@[simp] theorem slice_zero (m : Memory) : slice m 0 = [] := rfl

theorem slice_succ (m : Memory) (n : Nat) : slice m (n + 1) = slice m n ++ [readCell m n] := by
  simp [slice, List.range_succ]

/-- A write at or beyond the end of a payload leaves the payload. -/
theorem slice_writeCell_of_le (m : Memory) {n a : Nat} (v : Byte) (h : n ≤ a) :
    slice (writeCell m a v) n = slice m n := by
  simp only [slice, List.map_inj_left, List.mem_range]
  intro c hc
  exact readCell_writeCell_ne m v (by omega)

/-- A write just past a payload appends a byte to it. -/
theorem slice_writeCell_succ (m : Memory) (n : Nat) (v : Byte) :
    slice (writeCell m n v) (n + 1) = slice m n ++ [some v] := by
  rw [slice_succ, slice_writeCell_of_le m v le_rfl, readCell_writeCell_self]

end Sys2Proof.Machine
end

