-- ==== Sys2Proof/Laws/Ops.lean ====
section
/-! SUPPORT. What each shared operation can do, said once. -/

namespace Sys2Proof.Machine

/-! ### Results -/

@[simp] theorem onNext_next (s : State) (f : State → State) : onNext (.next s) f = .next (f s) := rfl
@[simp] theorem onNext_fault (e : Fault) (f : State → State) : onNext (.fault e) f = .fault e := rfl
@[simp] theorem onNext_refused (e : Refusal) (f : State → State) : onNext (.refused e) f = .refused e := rfl

/-- `onNext` answers a next state exactly when its argument does. -/
theorem onNext_eq_next {o : Result} {f : State → State} {t : State} :
    onNext o f = .next t ↔ ∃ u, o = .next u ∧ t = f u := by
  cases o <;> simp [onNext, eq_comm]

theorem whenSelected_of_selects {i : Instr} {s : State} (o : Result) (h : selects i s = true) :
    whenSelected i s o = o := by simp [whenSelected, h]

theorem whenSelected_of_not {i : Instr} {s : State} (o : Result) (h : selects i s = false) :
    whenSelected i s o = .refused .rowNotSelected := by simp [whenSelected, h]

/-- A meaning answers a next state exactly when its row is selected and its body does. -/
theorem whenSelected_eq_next {i : Instr} {s t : State} {o : Result} :
    whenSelected i s o = .next t ↔ selects i s = true ∧ o = .next t := by
  by_cases h : selects i s = true <;> simp [whenSelected, h]

theorem onDigit_of_some {b : Byte} {v : BitVec 4} (f : Byte → Result) (h : hexval b = some v) :
    onDigit b f = f (v.setWidth 8) := by simp [onDigit, h]

/-- A digit row answers a next state exactly when its byte is a digit and its body does. -/
theorem onDigit_eq_next {b : Byte} {f : Byte → Result} {t : State} :
    onDigit b f = .next t ↔ ∃ v, hexval b = some v ∧ f (v.setWidth 8) = .next t := by
  unfold onDigit
  cases hexval b <;> simp

/-! ### Buffer writes and consumer reads -/

/-- An `NBUF` write answers a next state exactly when the cell exists, and then it is the store. -/
theorem storeNbuf_eq_next {s t : State} {a : Nat} {v : Byte} :
    storeNbuf s a v = .next t ↔ a ≤ s.nmeaCap ∧ t = s.setNmea (s.nmea.store a v) := by
  unfold storeNbuf
  split <;> simp_all [eq_comm]

theorem storeNbuf_of_le {s : State} {a : Nat} (v : Byte) (h : a ≤ s.nmeaCap) :
    storeNbuf s a v = .next (s.setNmea (s.nmea.store a v)) := by simp [storeNbuf, h]

/-- A `UBUF` write answers a next state exactly when the cell exists, and then it is the store. -/
theorem storeUbuf_eq_next {s t : State} {a : Nat} {v : Byte} :
    storeUbuf s a v = .next t ↔ a < s.ubxCap ∧ t = s.setUbx (s.ubx.store a v) := by
  unfold storeUbuf
  split <;> simp_all [eq_comm]

theorem storeUbuf_of_lt {s : State} {a : Nat} (v : Byte) (h : a < s.ubxCap) :
    storeUbuf s a v = .next (s.setUbx (s.ubx.store a v)) := by simp [storeUbuf, h]

/-- A read of `NBUF` that answers a next state returned the cell's value and did nothing else. -/
theorem readNbuf_eq_next {s t : State} {a : Nat} :
    readNbuf s a = .next t ↔ a ≤ s.nmeaCap ∧ a ∈ s.nmea.fresh ∧
      ∃ v, readCell s.nmea.buf a = some v ∧ t = s.setNbRead v := by
  unfold readNbuf
  split
  · split
    · cases readCell s.nmea.buf a with
      | none => simp
      | some v => simp [*, eq_comm]
    · simp [*]
  · simp [*]

/-- A read of `UBUF` that answers a next state returned the cell's value and did nothing else. -/
theorem readUbuf_eq_next {s t : State} {a : Nat} :
    readUbuf s a = .next t ↔ a < s.ubxCap ∧ a ∈ s.ubx.fresh ∧
      ∃ v, readCell s.ubx.buf a = some v ∧ t = s.setUbRead v := by
  unfold readUbuf
  split
  · split
    · cases readCell s.ubx.buf a with
      | none => simp
      | some v => simp [*, eq_comm]
    · simp [*]
  · simp [*]

/-! ### The two completing rows -/

/-- What R127 and R128 share: with a digit and a cell for the sentinel, the one next state there is. -/
theorem finishNmea_eq_next {b : Byte} {s t : State} {f : Half → List (Option Byte) → Event} :
    finishNmea b s f = .next t ↔ ∃ v, hexval b = some v ∧ s.nmea.len.toNat ≤ s.nmeaCap ∧
      t = (s.setNmea { s.nmea.store s.nmea.len.toNat sentinel with
        exp := s.nmea.exp + v.setWidth 8, state := NState.idle }).emit
          (f s.nmea.len (slice s.nmea.buf s.nmea.len.toNat)) := by
  unfold finishNmea
  rw [onDigit_eq_next]
  refine exists_congr fun v => and_congr_right fun _ => ?_
  rw [onNext_eq_next]
  constructor
  · rintro ⟨u, hu, rfl⟩
    obtain ⟨h, rfl⟩ := storeNbuf_eq_next.1 hu
    refine ⟨h, ?_⟩
    simp only [State.setNmea_nmea, NmeaFramer.store_buf, slice_writeCell_of_le _ _ le_rfl]
    rfl
  · rintro ⟨h, rfl⟩
    refine ⟨_, storeNbuf_of_le _ h, ?_⟩
    simp only [State.setNmea_nmea, NmeaFramer.store_buf, slice_writeCell_of_le _ _ le_rfl]
    rfl

/-! ### The selection of a row -/

/-- A selected row is well formed. -/
theorem wf_of_selects {i : Instr} {s : State} (h : selects i s = true) : i.wf = true := by
  simp only [selects, Bool.and_eq_true] at h
  exact h.1.1

/-- Selection reads the capacities, `d_state` and the two framers only. -/
theorem selects_congr {i : Instr} {s t : State} (hc : s.cfg = t.cfg) (hd : s.dState = t.dState)
    (hn : s.nmea = t.nmea) (hu : s.ubx = t.ubx) : selects i s = selects i t := by
  obtain ⟨_, _, _, _, _, _, _, _⟩ := s
  obtain ⟨_, _, _, _, _, _, _, _⟩ := t
  subst hc hd hn hu
  cases i <;> rfl

end Sys2Proof.Machine
end

