-- ==== Sys2Proof/Laws/PerInstr.lean ====
section
/-! SUPPORT. The family of laws of the encoding, one lemma per constructor: the word of a transition holds its
byte, its state place and its condition place. -/

namespace Sys2Proof.Laws

/-- The three places of a transition's word. -/
def EncodingFields.Statement (i : Instr) : Prop :=
  wordByte (encode i) = i.byte ∧ wordState (encode i) = statePlace i.unit i.stateCode ∧
    wordCond (encode i) = i.condPlace

theorem EncodingFields.nIdleStart : EncodingFields.Statement .nIdleStart := encode_places _
theorem EncodingFields.nIdleIgnore (b : Byte) : EncodingFields.Statement (.nIdleIgnore b) := encode_places _
theorem EncodingFields.nCollectEnd : EncodingFields.Statement .nCollectEnd := encode_places _
theorem EncodingFields.nCollectAppend (b : Byte) : EncodingFields.Statement (.nCollectAppend b) := encode_places _
theorem EncodingFields.nCollectOverflow (b : Byte) : EncodingFields.Statement (.nCollectOverflow b) := encode_places _
theorem EncodingFields.nHiDigit (b : Byte) : EncodingFields.Statement (.nHiDigit b) := encode_places _
theorem EncodingFields.nHiBad (b : Byte) : EncodingFields.Statement (.nHiBad b) := encode_places _
theorem EncodingFields.nLoMatch (b : Byte) : EncodingFields.Statement (.nLoMatch b) := encode_places _
theorem EncodingFields.nLoMismatch (b : Byte) : EncodingFields.Statement (.nLoMismatch b) := encode_places _
theorem EncodingFields.nLoBad (b : Byte) : EncodingFields.Statement (.nLoBad b) := encode_places _
theorem EncodingFields.uIdleSync1 : EncodingFields.Statement .uIdleSync1 := encode_places _
theorem EncodingFields.uIdleIgnore (b : Byte) : EncodingFields.Statement (.uIdleIgnore b) := encode_places _
theorem EncodingFields.uSync2Ok : EncodingFields.Statement .uSync2Ok := encode_places _
theorem EncodingFields.uSync2Fail (b : Byte) : EncodingFields.Statement (.uSync2Fail b) := encode_places _
theorem EncodingFields.uClass (b : Byte) : EncodingFields.Statement (.uClass b) := encode_places _
theorem EncodingFields.uId (b : Byte) : EncodingFields.Statement (.uId b) := encode_places _
theorem EncodingFields.uLenLo (b : Byte) : EncodingFields.Statement (.uLenLo b) := encode_places _
theorem EncodingFields.uLenHiZero (b : Byte) : EncodingFields.Statement (.uLenHiZero b) := encode_places _
theorem EncodingFields.uLenHiOverflow (b : Byte) : EncodingFields.Statement (.uLenHiOverflow b) := encode_places _
theorem EncodingFields.uLenHiPayload (b : Byte) : EncodingFields.Statement (.uLenHiPayload b) := encode_places _
theorem EncodingFields.uPayloadByte (b : Byte) : EncodingFields.Statement (.uPayloadByte b) := encode_places _
theorem EncodingFields.uPayloadLast (b : Byte) : EncodingFields.Statement (.uPayloadLast b) := encode_places _
theorem EncodingFields.uCksumA (b : Byte) : EncodingFields.Statement (.uCksumA b) := encode_places _
theorem EncodingFields.uCksumBMatch (b : Byte) : EncodingFields.Statement (.uCksumBMatch b) := encode_places _
theorem EncodingFields.uCksumBMismatch (b : Byte) : EncodingFields.Statement (.uCksumBMismatch b) := encode_places _
theorem EncodingFields.uPayloadZeroCount (b : Byte) : EncodingFields.Statement (.uPayloadZeroCount b) := encode_places _
theorem EncodingFields.uReservedState9 (b : Byte) : EncodingFields.Statement (.uReservedState9 b) := encode_places _
theorem EncodingFields.uReservedState10To11 (x : BitVec 1) (b : Byte) : EncodingFields.Statement (.uReservedState10To11 x b) := encode_places _
theorem EncodingFields.uReservedState12To15 (x : BitVec 2) (b : Byte) : EncodingFields.Statement (.uReservedState12To15 x b) := encode_places _
theorem EncodingFields.dIdleNmea : EncodingFields.Statement .dIdleNmea := encode_places _
theorem EncodingFields.dIdleUbx : EncodingFields.Statement .dIdleUbx := encode_places _
theorem EncodingFields.dIdleDiscard (b : Byte) : EncodingFields.Statement (.dIdleDiscard b) := encode_places _
theorem EncodingFields.dFwdNmea (b : Byte) : EncodingFields.Statement (.dFwdNmea b) := encode_places _
theorem EncodingFields.dFwdUbx (b : Byte) : EncodingFields.Statement (.dFwdUbx b) := encode_places _
theorem EncodingFields.dReservedState (b : Byte) : EncodingFields.Statement (.dReservedState b) := encode_places _

end Sys2Proof.Laws
end

