-- ==== Sys2Proof/Laws/Step.lean ====
section
/-! SUPPORT. What one step can do. -/

namespace Sys2Proof.Machine

@[simp] theorem cycleStep_reset (v : Bool) (b : Byte) (s : State) :
    cycleStep true v b s = .next (applyReset s) := rfl

@[simp] theorem cycleStep_byte (b : Byte) (s : State) : cycleStep false true b s = byteStep b s := rfl

@[simp] theorem cycleStep_hold (b : Byte) (s : State) :
    cycleStep false false b s = .next (holdCycle s) := rfl

/-- A step with a stimulus left is that stimulus on the state without it. -/
theorem step_cons {s : State} {x : Stimulus} {rest : List Stimulus} (h : s.inputs = x :: rest) :
    step s = stimulusStep x (s.setInputs rest) := by
  simp [step, h]

theorem step_nil {s : State} (h : s.inputs = []) : step s = .next (holdCycle s) := by
  simp [step, h]

theorem step_cycle {s : State} {r v : Bool} {b : Byte} {rest : List Stimulus}
    (h : s.inputs = .cycle r v b :: rest) : step s = cycleStep r v b (s.setInputs rest) :=
  step_cons h

theorem step_readNbuf {s : State} {a : Half} {rest : List Stimulus}
    (h : s.inputs = .readNbuf a :: rest) : step s = readNbuf (s.setInputs rest) a.toNat :=
  step_cons h

theorem step_readUbuf {s : State} {a : Half} {rest : List Stimulus}
    (h : s.inputs = .readUbuf a :: rest) : step s = readUbuf (s.setInputs rest) a.toNat :=
  step_cons h

/-- A step that answers a next state is one of these: a cycle without a byte, a reset, a byte, or a consumer
read of a cell that exists and was written since reset. -/
theorem step_eq_next {s t : State} (h : step s = .next t) :
    (s.inputs = [] ∧ t = holdCycle s) ∨
    (∃ b rest, s.inputs = .cycle false false b :: rest ∧ t = holdCycle (s.setInputs rest)) ∨
    (∃ v b rest, s.inputs = .cycle true v b :: rest ∧ t = applyReset (s.setInputs rest)) ∨
    (∃ b rest, s.inputs = .cycle false true b :: rest ∧ byteStep b (s.setInputs rest) = .next t) ∨
    (∃ a rest v, s.inputs = .readNbuf a :: rest ∧ (a.toNat ≤ s.nmeaCap ∧ a.toNat ∈ s.nmea.fresh ∧
      readCell s.nmea.buf a.toNat = some v) ∧ t = (s.setInputs rest).setNbRead v) ∨
    (∃ a rest v, s.inputs = .readUbuf a :: rest ∧ (a.toNat < s.ubxCap ∧ a.toNat ∈ s.ubx.fresh ∧
      readCell s.ubx.buf a.toNat = some v) ∧ t = (s.setInputs rest).setUbRead v) := by
  cases hi : s.inputs with
  | nil =>
    rw [step_nil hi] at h
    cases h
    exact .inl ⟨rfl, rfl⟩
  | cons x rest =>
    cases x with
    | cycle r v b =>
      rw [step_cycle hi] at h
      cases r with
      | true =>
        cases h
        exact .inr (.inr (.inl ⟨v, b, rest, rfl, rfl⟩))
      | false =>
        cases v with
        | true => exact .inr (.inr (.inr (.inl ⟨b, rest, rfl, h⟩)))
        | false =>
          cases h
          exact .inr (.inl ⟨b, rest, rfl, rfl⟩)
    | readNbuf a =>
      rw [step_readNbuf hi] at h
      obtain ⟨hc, hf, v, hv, rfl⟩ := readNbuf_eq_next.1 h
      exact .inr (.inr (.inr (.inr (.inl ⟨a, rest, v, rfl, ⟨hc, hf, hv⟩, rfl⟩))))
    | readUbuf a =>
      rw [step_readUbuf hi] at h
      obtain ⟨hc, hf, v, hv, rfl⟩ := readUbuf_eq_next.1 h
      exact .inr (.inr (.inr (.inr (.inr ⟨a, rest, v, rfl, ⟨hc, hf, hv⟩, rfl⟩))))

end Sys2Proof.Machine
end

