-- ==== Sys2Proof/Laws/Run.lean ====
section
/-! SUPPORT. What feeding and observing can do, said once. -/

namespace Sys2Proof.Machine

/-! ### Feeding -/

@[simp] theorem feedBy_nil (f : Byte → State → Result) (s : State) : feedBy f [] s = some ([], s) := rfl

/-- Feeding starts with the step of the first byte, if that answers. -/
theorem feedBy_of_next {f : Byte → State → Result} {b : Byte} {l : List Byte} {s t : State}
    (h : f b s = .next t) : feedBy f (b :: l) s = (feedBy f l t).map fun r => (t.evt :: r.1, r.2) := by
  simp [feedBy, h]

/-- Feeding answers exactly when the first byte's step and the feeding of the rest do. -/
theorem feedBy_cons_eq_some {f : Byte → State → Result} {b : Byte} {l : List Byte} {s u : State}
    {es : List Event} :
    feedBy f (b :: l) s = some (es, u) ↔
      ∃ t fs, f b s = .next t ∧ feedBy f l t = some (fs, u) ∧ es = t.evt :: fs := by
  cases h : f b s <;> simp [feedBy, h, eq_comm]

@[simp] theorem observation_nil (k : Nat) : observation k [] = [] := rfl
@[simp] theorem observation_none (k : Nat) (l : List Event) :
    observation k (.none :: l) = observation (k + 1) l := rfl

/-! ### The bytes and the reads of a stimulus stream -/

@[simp] theorem bytesOf_nil : bytesOf [] = [] := rfl
@[simp] theorem bytesOf_byte (b : Byte) (l : List Stimulus) :
    bytesOf (.cycle false true b :: l) = b :: bytesOf l := rfl
@[simp] theorem bytesOf_hold (b : Byte) (l : List Stimulus) :
    bytesOf (.cycle false false b :: l) = bytesOf l := rfl
@[simp] theorem bytesOf_reset (v : Bool) (b : Byte) (l : List Stimulus) :
    bytesOf (.cycle true v b :: l) = bytesOf l := rfl
@[simp] theorem bytesOf_readNbuf (a : Half) (l : List Stimulus) : bytesOf (.readNbuf a :: l) = bytesOf l := rfl
@[simp] theorem bytesOf_readUbuf (a : Half) (l : List Stimulus) : bytesOf (.readUbuf a :: l) = bytesOf l := rfl

/-- A stream of byte cycles feeds its bytes. -/
@[simp] theorem bytesOf_byteCycles (l : List Byte) : bytesOf (byteCycles l) = l := by
  induction l with
  | nil => rfl
  | cons b l ih => simpa [byteCycles] using ih

/-! ### Observing -/

@[simp] theorem observation_after_byte (o : Observation) (b : Byte) (t : State) :
    o.after (some (.cycle false true b)) t = o.afterByte t := rfl
@[simp] theorem observation_after_hold (o : Observation) (b : Byte) (t : State) :
    o.after (some (.cycle false false b)) t = { o with final := t } := rfl
@[simp] theorem observation_after_reset (o : Observation) (v : Bool) (b : Byte) (t : State) :
    o.after (some (.cycle true v b)) t = .start t := rfl
@[simp] theorem observation_after_readNbuf (o : Observation) (a : Half) (t : State) :
    o.after (some (.readNbuf a)) t = o.afterRead .nbuf a t.nbRead t := rfl
@[simp] theorem observation_after_readUbuf (o : Observation) (a : Half) (t : State) :
    o.after (some (.readUbuf a)) t = o.afterRead .ubuf a t.ubRead t := rfl

/-- Whatever the stimulus, the state observed last is the state reached. -/
@[simp] theorem observation_after_final (o : Observation) (x : Option Stimulus) (t : State) :
    (o.after x t).final = t := by
  unfold Observation.after
  split <;> rfl

@[simp] theorem observeSteps_zero (o : Observation) : observeSteps 0 o = some o := rfl

/-- Observing goes on from the state that the step answers. -/
theorem observeSteps_of_next {n : Nat} {o : Observation} {t : State} (h : step o.final = .next t) :
    observeSteps (n + 1) o = observeSteps n (o.after o.final.inputs.head? t) := by
  simp [observeSteps, h]

/-- Observing answers exactly when the step and the observing of the rest do. -/
theorem observeSteps_succ_eq_some {n : Nat} {o p : Observation} :
    observeSteps (n + 1) o = some p ↔
      ∃ t, step o.final = .next t ∧ observeSteps n (o.after o.final.inputs.head? t) = some p := by
  cases h : step o.final <;> simp [observeSteps, h]

end Sys2Proof.Machine
end

