-- ==== Sys2Proof/Laws/Select.lean ====
section
/-! SUPPORT. When each row is selected: its byte set, its state, its condition, one lemma per row. -/

namespace Sys2Proof.Machine

/-- Widening a 2-bit state code loses nothing. -/
theorem setWidth_code_eq (x : BitVec 2) :
    (x.setWidth 4 = 0#4 ↔ x = 0#2) ∧ (x.setWidth 4 = 1#4 ↔ x = 1#2) ∧
      (x.setWidth 4 = 2#4 ↔ x = 2#2) ∧ (x.setWidth 4 = 3#4 ↔ x = 3#2) := by
  revert x
  decide

section
variable (s : State) (b : Byte)

theorem selects_nIdleStart : selects .nIdleStart s = true ↔
    s.nmea.state = NState.idle := by
  simp [selects, Instr.wf, inRowState, rowCondition, Instr.unit, Instr.stateCode, setWidth_code_eq]

theorem selects_nIdleIgnore : selects (.nIdleIgnore b) s = true ↔
    b ≠ dollar ∧ s.nmea.state = NState.idle := by
  simp [selects, Instr.wf, inRowState, rowCondition, Instr.unit, Instr.stateCode, setWidth_code_eq]

theorem selects_nCollectEnd : selects .nCollectEnd s = true ↔
    s.nmea.state = NState.collect := by
  simp [selects, Instr.wf, inRowState, rowCondition, Instr.unit, Instr.stateCode, setWidth_code_eq]

theorem selects_nCollectAppend : selects (.nCollectAppend b) s = true ↔
    b ≠ star ∧ s.nmea.state = NState.collect ∧ s.nmea.len.toNat < s.nmeaCap := by
  simp [selects, Instr.wf, inRowState, rowCondition, Instr.unit, Instr.stateCode, setWidth_code_eq, nHasRoom, and_assoc]

theorem selects_nCollectOverflow : selects (.nCollectOverflow b) s = true ↔
    b ≠ star ∧ s.nmea.state = NState.collect ∧ s.nmeaCap ≤ s.nmea.len.toNat := by
  simp [selects, Instr.wf, inRowState, rowCondition, Instr.unit, Instr.stateCode, setWidth_code_eq, nHasRoom, and_assoc]

theorem selects_nHiDigit : selects (.nHiDigit b) s = true ↔
    isHex b = true ∧ s.nmea.state = NState.cksumHi := by
  simp [selects, Instr.wf, inRowState, rowCondition, Instr.unit, Instr.stateCode, setWidth_code_eq]

theorem selects_nHiBad : selects (.nHiBad b) s = true ↔
    isHex b = false ∧ s.nmea.state = NState.cksumHi := by
  simp [selects, Instr.wf, inRowState, rowCondition, Instr.unit, Instr.stateCode, setWidth_code_eq]

theorem selects_nLoMatch : selects (.nLoMatch b) s = true ↔
    isHex b = true ∧ s.nmea.state = NState.cksumLo ∧ nDigitsMatch s b = true := by
  simp [selects, Instr.wf, inRowState, rowCondition, Instr.unit, Instr.stateCode, setWidth_code_eq, and_assoc]

theorem selects_nLoMismatch : selects (.nLoMismatch b) s = true ↔
    isHex b = true ∧ s.nmea.state = NState.cksumLo ∧ nDigitsMatch s b = false := by
  simp [selects, Instr.wf, inRowState, rowCondition, Instr.unit, Instr.stateCode, setWidth_code_eq, and_assoc]

theorem selects_nLoBad : selects (.nLoBad b) s = true ↔
    isHex b = false ∧ s.nmea.state = NState.cksumLo := by
  simp [selects, Instr.wf, inRowState, rowCondition, Instr.unit, Instr.stateCode, setWidth_code_eq]

theorem selects_uIdleSync1 : selects .uIdleSync1 s = true ↔
    s.ubx.state = UState.idle := by
  simp [selects, Instr.wf, inRowState, rowCondition, Instr.unit, Instr.stateCode]

theorem selects_uIdleIgnore : selects (.uIdleIgnore b) s = true ↔
    b ≠ sync1 ∧ s.ubx.state = UState.idle := by
  simp [selects, Instr.wf, inRowState, rowCondition, Instr.unit, Instr.stateCode]

theorem selects_uSync2Ok : selects .uSync2Ok s = true ↔
    s.ubx.state = UState.sync2 := by
  simp [selects, Instr.wf, inRowState, rowCondition, Instr.unit, Instr.stateCode]

theorem selects_uSync2Fail : selects (.uSync2Fail b) s = true ↔
    b ≠ sync2 ∧ s.ubx.state = UState.sync2 := by
  simp [selects, Instr.wf, inRowState, rowCondition, Instr.unit, Instr.stateCode]

theorem selects_uClass : selects (.uClass b) s = true ↔
    s.ubx.state = UState.cls := by
  simp [selects, Instr.wf, inRowState, rowCondition, Instr.unit, Instr.stateCode]

theorem selects_uId : selects (.uId b) s = true ↔
    s.ubx.state = UState.id := by
  simp [selects, Instr.wf, inRowState, rowCondition, Instr.unit, Instr.stateCode]

theorem selects_uLenLo : selects (.uLenLo b) s = true ↔
    s.ubx.state = UState.lenLo := by
  simp [selects, Instr.wf, inRowState, rowCondition, Instr.unit, Instr.stateCode]

theorem selects_uLenHiZero : selects (.uLenHiZero b) s = true ↔
    s.ubx.state = UState.lenHi ∧ lenWith s b = 0#16 := by
  simp [selects, Instr.wf, inRowState, rowCondition, Instr.unit, Instr.stateCode]

theorem selects_uLenHiOverflow : selects (.uLenHiOverflow b) s = true ↔
    s.ubx.state = UState.lenHi ∧ s.ubxCap < (lenWith s b).toNat := by
  simp [selects, Instr.wf, inRowState, rowCondition, Instr.unit, Instr.stateCode]

theorem selects_uLenHiPayload : selects (.uLenHiPayload b) s = true ↔
    s.ubx.state = UState.lenHi ∧ 0 < (lenWith s b).toNat ∧ (lenWith s b).toNat ≤ s.ubxCap := by
  simp [selects, Instr.wf, inRowState, rowCondition, Instr.unit, Instr.stateCode]

theorem selects_uPayloadByte : selects (.uPayloadByte b) s = true ↔
    s.ubx.state = UState.payload ∧ 2 ≤ s.ubx.cnt.toNat := by
  simp [selects, Instr.wf, inRowState, rowCondition, Instr.unit, Instr.stateCode]

theorem selects_uPayloadLast : selects (.uPayloadLast b) s = true ↔
    s.ubx.state = UState.payload ∧ s.ubx.cnt = 1#16 := by
  simp [selects, Instr.wf, inRowState, rowCondition, Instr.unit, Instr.stateCode]

theorem selects_uCksumA : selects (.uCksumA b) s = true ↔
    s.ubx.state = UState.cksumA := by
  simp [selects, Instr.wf, inRowState, rowCondition, Instr.unit, Instr.stateCode]

theorem selects_uCksumBMatch : selects (.uCksumBMatch b) s = true ↔
    s.ubx.state = UState.cksumB ∧ s.ubx.expA = s.ubx.ckA ∧ b = s.ubx.ckB := by
  simp [selects, Instr.wf, inRowState, rowCondition, Instr.unit, Instr.stateCode, uSumsMatch]

theorem selects_uCksumBMismatch : selects (.uCksumBMismatch b) s = true ↔
    s.ubx.state = UState.cksumB ∧ (s.ubx.expA ≠ s.ubx.ckA ∨ b ≠ s.ubx.ckB) := by
  simp [selects, Instr.wf, inRowState, rowCondition, Instr.unit, Instr.stateCode, uSumsMatch]

theorem selects_uPayloadZeroCount : selects (.uPayloadZeroCount b) s = true ↔
    s.ubx.state = UState.payload ∧ s.ubx.cnt = 0#16 := by
  simp [selects, Instr.wf, inRowState, rowCondition, Instr.unit, Instr.stateCode]

theorem selects_uReservedState9 : selects (.uReservedState9 b) s = true ↔
    s.ubx.state = 9#4 := by
  simp [selects, Instr.wf, inRowState, rowCondition, Instr.unit, Instr.stateCode]

theorem selects_uReservedState10To11 (x : BitVec 1) : selects (.uReservedState10To11 x b) s = true ↔
    s.ubx.state = 5#3 ++ x := by
  simp [selects, Instr.wf, inRowState, rowCondition, Instr.unit, Instr.stateCode]

theorem selects_uReservedState12To15 (x : BitVec 2) : selects (.uReservedState12To15 x b) s = true ↔
    s.ubx.state = 3#2 ++ x := by
  simp [selects, Instr.wf, inRowState, rowCondition, Instr.unit, Instr.stateCode]

theorem selects_dIdleNmea : selects .dIdleNmea s = true ↔
    s.dState = DState.idle := by
  simp [selects, Instr.wf, inRowState, rowCondition, Instr.unit, Instr.stateCode, setWidth_code_eq]

theorem selects_dIdleUbx : selects .dIdleUbx s = true ↔
    s.dState = DState.idle := by
  simp [selects, Instr.wf, inRowState, rowCondition, Instr.unit, Instr.stateCode, setWidth_code_eq]

theorem selects_dIdleDiscard : selects (.dIdleDiscard b) s = true ↔
    (b ≠ dollar ∧ b ≠ sync1) ∧ s.dState = DState.idle := by
  simp [selects, Instr.wf, inRowState, rowCondition, Instr.unit, Instr.stateCode, setWidth_code_eq]

theorem selects_dFwdNmea : selects (.dFwdNmea b) s = true ↔
    s.dState = DState.inNmea := by
  simp [selects, Instr.wf, inRowState, rowCondition, Instr.unit, Instr.stateCode, setWidth_code_eq]

theorem selects_dFwdUbx : selects (.dFwdUbx b) s = true ↔
    s.dState = DState.inUbx := by
  simp [selects, Instr.wf, inRowState, rowCondition, Instr.unit, Instr.stateCode, setWidth_code_eq]

theorem selects_dReservedState : selects (.dReservedState b) s = true ↔
    s.dState = DState.reserved := by
  simp [selects, Instr.wf, inRowState, rowCondition, Instr.unit, Instr.stateCode, setWidth_code_eq]

end

end Sys2Proof.Machine
end

