-- ==== Sys2Proof/Tests/Slice0.lean ====
section
/-! SUPPORT. Tests of the model. Expected values come from the vectors of spec/95_test_vectors.md (the section is
named at each group) or, for words, from the encodings of the rules; witnesses show for every statement with
hypotheses a concrete state and operands that meet them. -/

namespace Sys2Proof.Tests

open Sys2Proof Sys2Proof.Machine

/-! ### Well-formedness: each check refuses an ill-formed term -/

theorem test_wf_nIdleIgnore_dollar : (Instr.nIdleIgnore 0x24#8).wf = false := by decide
theorem test_wf_nCollectAppend_star : (Instr.nCollectAppend 0x2A#8).wf = false := by decide
theorem test_wf_nCollectOverflow_star : (Instr.nCollectOverflow 0x2A#8).wf = false := by decide
theorem test_wf_nHiDigit_G : (Instr.nHiDigit 0x47#8).wf = false := by decide
theorem test_wf_nHiBad_4 : (Instr.nHiBad 0x34#8).wf = false := by decide
theorem test_wf_nLoMatch_G : (Instr.nLoMatch 0x47#8).wf = false := by decide
theorem test_wf_nLoMismatch_slash : (Instr.nLoMismatch 0x2F#8).wf = false := by decide
theorem test_wf_nLoBad_f : (Instr.nLoBad 0x66#8).wf = false := by decide
theorem test_wf_uIdleIgnore_sync1 : (Instr.uIdleIgnore 0xB5#8).wf = false := by decide
theorem test_wf_uSync2Fail_sync2 : (Instr.uSync2Fail 0x62#8).wf = false := by decide
theorem test_wf_dIdleDiscard_dollar : (Instr.dIdleDiscard 0x24#8).wf = false := by decide
theorem test_wf_dIdleDiscard_sync1 : (Instr.dIdleDiscard 0xB5#8).wf = false := by decide

/-! ### Decoding: a word for every constructor

The low 12 bits of the UBX words of states 4 to 15 and the low 10 bits of the dispatcher words are the spec's own
selector words; NMEA words and UBX words of states 0 to 3 carry the model's place bits above the byte (log
entry 2). -/

theorem test_decode_nIdleStart : decode 0x1024#16 = .ok .nIdleStart := by decide
theorem test_decode_nIdleIgnore : decode 0x1041#16 = .ok (.nIdleIgnore 0x41#8) := by decide
theorem test_decode_nCollectEnd : decode 0x112A#16 = .ok .nCollectEnd := by decide
theorem test_decode_nCollectAppend : decode 0x1141#16 = .ok (.nCollectAppend 0x41#8) := by decide
theorem test_decode_nCollectOverflow : decode 0x5144#16 = .ok (.nCollectOverflow 0x44#8) := by decide
theorem test_decode_nHiDigit : decode 0x1234#16 = .ok (.nHiDigit 0x34#8) := by decide
theorem test_decode_nHiBad : decode 0x1247#16 = .ok (.nHiBad 0x47#8) := by decide
theorem test_decode_nLoMatch : decode 0x1361#16 = .ok (.nLoMatch 0x61#8) := by decide
theorem test_decode_nLoMismatch : decode 0x5330#16 = .ok (.nLoMismatch 0x30#8) := by decide
theorem test_decode_nLoBad : decode 0x1324#16 = .ok (.nLoBad 0x24#8) := by decide
theorem test_decode_uIdleSync1 : decode 0x20B5#16 = .ok .uIdleSync1 := by decide
theorem test_decode_uIdleIgnore : decode 0x2062#16 = .ok (.uIdleIgnore 0x62#8) := by decide
theorem test_decode_uSync2Ok : decode 0x2162#16 = .ok .uSync2Ok := by decide
theorem test_decode_uSync2Fail : decode 0x21B5#16 = .ok (.uSync2Fail 0xB5#8) := by decide
theorem test_decode_uClass : decode 0x2205#16 = .ok (.uClass 0x05#8) := by decide
theorem test_decode_uId : decode 0x2301#16 = .ok (.uId 0x01#8) := by decide
theorem test_decode_uLenLo : decode 0x0402#16 = .ok (.uLenLo 0x02#8) := by decide
theorem test_decode_uLenHiZero : decode 0x0500#16 = .ok (.uLenHiZero 0x00#8) := by decide
theorem test_decode_uLenHiOverflow : decode 0x4501#16 = .ok (.uLenHiOverflow 0x01#8) := by decide
theorem test_decode_uLenHiPayload : decode 0x8501#16 = .ok (.uLenHiPayload 0x01#8) := by decide
theorem test_decode_uPayloadByte : decode 0x0606#16 = .ok (.uPayloadByte 0x06#8) := by decide
theorem test_decode_uPayloadLast : decode 0x4624#16 = .ok (.uPayloadLast 0x24#8) := by decide
theorem test_decode_uCksumA : decode 0x0707#16 = .ok (.uCksumA 0x07#8) := by decide
theorem test_decode_uCksumBMatch : decode 0x0817#16 = .ok (.uCksumBMatch 0x17#8) := by decide
theorem test_decode_uCksumBMismatch : decode 0x4818#16 = .ok (.uCksumBMismatch 0x18#8) := by decide
theorem test_decode_uPayloadZeroCount : decode 0x8600#16 = .ok (.uPayloadZeroCount 0x00#8) := by decide
theorem test_decode_uReservedState9 : decode 0x09FF#16 = .ok (.uReservedState9 0xFF#8) := by decide
theorem test_decode_uReservedState10To11 : decode 0x0A01#16 = .ok (.uReservedState10To11 0#1 0x01#8) := by decide
theorem test_decode_uReservedState12To15 : decode 0x0E01#16 = .ok (.uReservedState12To15 2#2 0x01#8) := by decide
theorem test_decode_dIdleNmea : decode 0x0024#16 = .ok .dIdleNmea := by decide
theorem test_decode_dIdleUbx : decode 0x00B5#16 = .ok .dIdleUbx := by decide
theorem test_decode_dIdleDiscard : decode 0x000D#16 = .ok (.dIdleDiscard 0x0D#8) := by decide
theorem test_decode_dFwdNmea : decode 0x01B5#16 = .ok (.dFwdNmea 0xB5#8) := by decide
theorem test_decode_dFwdUbx : decode 0x0224#16 = .ok (.dFwdUbx 0x24#8) := by decide
theorem test_decode_dReservedState : decode 0x0300#16 = .ok (.dReservedState 0x00#8) := by decide
theorem test_decode_no_state : decode 0x3F00#16 = .error .noSuchState := by decide
theorem test_decode_no_condition : decode 0xC500#16 = .error .noSuchCondition := by decide

/-- The selector of a row is the spec's: `USEL = 1010 ++ byte` (R79, R165). -/
theorem test_selector_reserved10 : (Instr.uReservedState10To11 0#1 0x17#8).selector = 0xA17#12 := by decide
/-- The opcode table has 35 rows (spec/opcode_table.json). -/
theorem test_table_rows : opcodeTable.length = 35 := by decide
theorem test_table_word_dispatcher : decodeTableWord 16 0x100 = some (.dFwdNmea 0x00#8) := by decide
theorem test_table_word_ubx : decodeTableWord 16 0x400 = some (.uLenLo 0x00#8) := by decide

/-! ### States and views -/

/-- Capacities for a test. -/
def caps (n u : Nat) : Config :=
  ⟨⟨n % 65536, Nat.mod_lt n (by decide)⟩, ⟨u % 65536, Nat.mod_lt u (by decide)⟩⟩

/-- The NMEA framer in a state, as 95_test_vectors.md §2.4 writes it, with the dispatcher forwarding to it unless it
is `IDLE`. The cells count as written since reset. -/
def nmeaAt (cap : Nat) (st : BitVec 2) (len : Half) (ck exp : Byte) (buf : Memory) : State :=
  { State.resetWith (caps cap 4) with
    dState := if st = NState.idle then DState.idle else DState.inNmea
    nmea := { state := st, ck := ck, len := len, exp := exp, buf := buf, fresh := buf.map (·.1) } }

/-- The UBX framer in a state, as 95_test_vectors.md §2.6 writes it; class and id are 05 and 01 of the ACK-ACK
frame. -/
def ubxAt (cap : Nat) (st : BitVec 4) (len cnt : Half) (ckA ckB expA : Byte) (buf : Memory) : State :=
  { State.resetWith (caps 4 cap) with
    dState := if st = UState.idle then DState.idle else DState.inUbx
    ubx := { state := st, ckA := ckA, ckB := ckB, cls := 0x05#8, id := 0x01#8, len := len, cnt := cnt,
             expA := expA, buf := buf, fresh := buf.map (·.1) } }

/-- State, length, checksum and expected checksum of the NMEA framer after a meaning. -/
def nmeaAfter (o : Result) : Option (BitVec 2 × Half × Byte × Byte) :=
  (nextOf o).map fun t => (t.nmea.state, t.nmea.len, t.nmea.ck, t.nmea.exp)

/-- State, length, countdown and accumulators of the UBX framer after a meaning. -/
def ubxAfter (o : Result) : Option (BitVec 4 × Half × Half × Byte × Byte) :=
  (nextOf o).map fun t => (t.ubx.state, t.ubx.len, t.ubx.cnt, t.ubx.ckA, t.ubx.ckB)

/-- The event of a meaning. -/
def eventOf (o : Result) : Option Event := (nextOf o).map (·.evt)

/-- The cells of `NBUF` after a meaning. -/
def nbufOf (o : Result) : Option Memory := (nextOf o).map (·.nmea.buf)

/-- The cells of `UBUF` after a meaning. -/
def ubufOf (o : Result) : Option Memory := (nextOf o).map (·.ubx.buf)

/-- The three state registers after a meaning. -/
def statesOf (o : Result) : Option (BitVec 2 × BitVec 2 × BitVec 4) :=
  (nextOf o).map fun t => (t.dState, t.nmea.state, t.ubx.state)

/-- The fault of a meaning. -/
def faultOf (o : Result) : Option Fault :=
  match o with
  | .fault e => some e
  | .next _ => none
  | .refused _ => none

/-- The refusal of a meaning. -/
def refusalOf (o : Result) : Option Refusal :=
  match o with
  | .refused e => some e
  | .next _ => none
  | .fault _ => none

/-! ### The NMEA framer, one step per rule (95_test_vectors.md §2.4) -/

theorem test_nIdleStart : nmeaAfter (exec .nIdleStart (nmeaAt 4 0#2 7#16 0x5A#8 0x30#8 [])) =
    some (1#2, 0#16, 0x00#8, 0x30#8) := by decide
theorem test_nIdleIgnore : nmeaAfter (exec (.nIdleIgnore 0x41#8) (nmeaAt 4 0#2 0#16 0#8 0#8 [])) =
    some (0#2, 0#16, 0x00#8, 0x00#8) := by decide
theorem test_nCollectEnd : nmeaAfter (exec .nCollectEnd (nmeaAt 4 1#2 1#16 0x41#8 0#8 [(0, 0x41#8)])) =
    some (2#2, 1#16, 0x41#8, 0x00#8) := by decide
theorem test_nCollectEnd_full : nmeaAfter (exec .nCollectEnd (nmeaAt 3 1#2 3#16 0x40#8 0#8 [])) =
    some (2#2, 3#16, 0x40#8, 0x00#8) := by decide
theorem test_nCollectAppend : nmeaAfter (exec (.nCollectAppend 0x24#8) (nmeaAt 4 1#2 1#16 0x41#8 0#8 [(0, 0x41#8)])) =
    some (1#2, 2#16, 0x65#8, 0x00#8) := by decide
theorem test_nCollectAppend_cell :
    nbufOf (exec (.nCollectAppend 0x24#8) (nmeaAt 4 1#2 1#16 0x41#8 0#8 [(0, 0x41#8)])) =
    some [(0, 0x41#8), (1, 0x24#8)] := by decide
theorem test_nCollectOverflow : nmeaAfter (exec (.nCollectOverflow 0x44#8) (nmeaAt 3 1#2 3#16 0x40#8 0#8 [])) =
    some (0#2, 3#16, 0x40#8, 0x00#8) := by decide
theorem test_nCollectOverflow_event :
    eventOf (exec (.nCollectOverflow 0x44#8) (nmeaAt 3 1#2 3#16 0x40#8 0#8 [])) =
    some (.nmeaOverflow 3#16) := by decide
theorem test_nHiDigit : nmeaAfter (exec (.nHiDigit 0x34#8) (nmeaAt 4 2#2 1#16 0x41#8 0#8 [])) =
    some (3#2, 1#16, 0x41#8, 0x40#8) := by decide
theorem test_nHiBad : nmeaAfter (exec (.nHiBad 0x2A#8) (nmeaAt 4 2#2 1#16 0x41#8 0#8 [])) =
    some (0#2, 1#16, 0x41#8, 0x00#8) := by decide
theorem test_nLoMatch : nbufOf (exec (.nLoMatch 0x31#8) (nmeaAt 4 3#2 1#16 0x41#8 0x40#8 [(0, 0x41#8)])) =
    some [(0, 0x41#8), (1, 0x00#8)] := by decide
theorem test_nLoMatch_lower_case :
    eventOf (exec (.nLoMatch 0x61#8) (nmeaAt 4 3#2 1#16 0x4A#8 0x40#8 [(0, 0x4A#8)])) =
    some (.nmeaFrame 1#16 [some 0x4A#8]) := by decide
theorem test_nLoMismatch :
    nmeaAfter (exec (.nLoMismatch 0x30#8) (nmeaAt 4 3#2 1#16 0x41#8 0x40#8 [(0, 0x41#8)])) =
    some (0#2, 1#16, 0x41#8, 0x40#8) := by decide
theorem test_nLoMismatch_event :
    eventOf (exec (.nLoMismatch 0x30#8) (nmeaAt 4 3#2 1#16 0x41#8 0x40#8 [(0, 0x41#8)])) =
    some (.nmeaChecksumError 1#16 [some 0x41#8]) := by decide
theorem test_nLoBad : nbufOf (exec (.nLoBad 0x24#8) (nmeaAt 4 3#2 1#16 0x41#8 0x40#8 [(0, 0x41#8)])) =
    some [(0, 0x41#8)] := by decide

/-! ### The UBX framer, one step per rule (95_test_vectors.md §2.6) -/

theorem test_uIdleSync1 : ubxAfter (exec .uIdleSync1 (ubxAt 4 0#4 0#16 0#16 0x06#8 0x17#8 0#8 [])) =
    some (1#4, 0#16, 0#16, 0x06#8, 0x17#8) := by decide
theorem test_uIdleIgnore : ubxAfter (exec (.uIdleIgnore 0x62#8) (ubxAt 4 0#4 0#16 0#16 0#8 0#8 0#8 [])) =
    some (0#4, 0#16, 0#16, 0#8, 0#8) := by decide
theorem test_uSync2Ok : ubxAfter (exec .uSync2Ok (ubxAt 4 1#4 0#16 0#16 0x06#8 0x17#8 0#8 [])) =
    some (2#4, 0#16, 0#16, 0x00#8, 0x00#8) := by decide
theorem test_uSync2Fail : ubxAfter (exec (.uSync2Fail 0xB5#8) (ubxAt 4 1#4 0#16 0#16 0#8 0#8 0#8 [])) =
    some (0#4, 0#16, 0#16, 0#8, 0#8) := by decide
theorem test_uClass : ubxAfter (exec (.uClass 0x05#8) (ubxAt 4 2#4 0#16 0#16 0#8 0#8 0#8 [])) =
    some (3#4, 0#16, 0#16, 0x05#8, 0x05#8) := by decide
theorem test_uClass_stored :
    (nextOf (exec (.uClass 0xFF#8) (ubxAt 4 2#4 0#16 0#16 0#8 0#8 0#8 []))).map (·.ubx.cls) = some 0xFF#8 := by
  decide
theorem test_uId : ubxAfter (exec (.uId 0x01#8) (ubxAt 4 3#4 0#16 0#16 0x05#8 0x05#8 0#8 [])) =
    some (4#4, 0#16, 0#16, 0x06#8, 0x0B#8) := by decide
theorem test_uId_stored :
    (nextOf (exec (.uId 0x22#8) (ubxAt 4 3#4 0#16 0#16 0#8 0#8 0#8 []))).map (·.ubx.id) = some 0x22#8 := by decide
theorem test_uLenLo : ubxAfter (exec (.uLenLo 0x00#8) (ubxAt 4 4#4 0x1234#16 0#16 0x06#8 0x0B#8 0#8 [])) =
    some (5#4, 0#16, 0#16, 0x06#8, 0x11#8) := by decide
theorem test_uLenHiZero : ubxAfter (exec (.uLenHiZero 0x00#8) (ubxAt 0 5#4 0#16 0#16 0x06#8 0x11#8 0#8 [])) =
    some (7#4, 0#16, 0#16, 0x06#8, 0x17#8) := by decide
theorem test_uLenHiOverflow : ubxAfter (exec (.uLenHiOverflow 0x00#8) (ubxAt 4 5#4 5#16 0#16 0x08#8 0x0C#8 0#8 [])) =
    some (0#4, 5#16, 0#16, 0x08#8, 0x14#8) := by decide
theorem test_uLenHiOverflow_event :
    eventOf (exec (.uLenHiOverflow 0x01#8) (ubxAt 255 5#4 0#16 0#16 0#8 0#8 0#8 [])) =
    some (.ubxError 0x05#8 0x01#8 255#16 .bufferOverflow) := by decide
theorem test_uLenHiPayload : ubxAfter (exec (.uLenHiPayload 0x00#8) (ubxAt 2 5#4 2#16 0#16 0x07#8 0x11#8 0#8 [])) =
    some (6#4, 2#16, 2#16, 0x07#8, 0x18#8) := by decide
theorem test_uLenHiPayload_256 : ubxAfter (exec (.uLenHiPayload 0x01#8) (ubxAt 256 5#4 0#16 0#16 0#8 0#8 0#8 [])) =
    some (6#4, 256#16, 256#16, 0x01#8, 0x01#8) := by decide
theorem test_uPayloadByte : ubxAfter (exec (.uPayloadByte 0x06#8) (ubxAt 2 6#4 2#16 2#16 0x07#8 0x18#8 0#8 [])) =
    some (6#4, 2#16, 1#16, 0x0D#8, 0x25#8) := by decide
theorem test_uPayloadByte_cell : ubufOf (exec (.uPayloadByte 0x06#8) (ubxAt 2 6#4 2#16 2#16 0x07#8 0x18#8 0#8 [])) =
    some [(0, 0x06#8)] := by decide
theorem test_uPayloadLast :
    ubxAfter (exec (.uPayloadLast 0x01#8) (ubxAt 2 6#4 2#16 1#16 0x0D#8 0x25#8 0#8 [(0, 0x06#8)])) =
    some (7#4, 2#16, 0#16, 0x0E#8, 0x33#8) := by decide
theorem test_uPayloadLast_cell :
    ubufOf (exec (.uPayloadLast 0x01#8) (ubxAt 2 6#4 2#16 1#16 0x0D#8 0x25#8 0#8 [(0, 0x06#8)])) =
    some [(0, 0x06#8), (1, 0x01#8)] := by decide
theorem test_uCksumA : ubxAfter (exec (.uCksumA 0x07#8) (ubxAt 4 7#4 0#16 0#16 0x06#8 0x17#8 0#8 [])) =
    some (8#4, 0#16, 0#16, 0x06#8, 0x17#8) := by decide
theorem test_uCksumA_stored :
    (nextOf (exec (.uCksumA 0x07#8) (ubxAt 4 7#4 0#16 0#16 0x06#8 0x17#8 0#8 []))).map (·.ubx.expA) =
    some 0x07#8 := by decide
theorem test_uCksumBMatch : eventOf (exec (.uCksumBMatch 0x17#8) (ubxAt 4 8#4 0#16 0#16 0x06#8 0x17#8 0x06#8 [])) =
    some (.ubxFrame 0x05#8 0x01#8 0#16 []) := by decide
theorem test_uCksumBMismatch_second :
    eventOf (exec (.uCksumBMismatch 0x18#8) (ubxAt 4 8#4 0#16 0#16 0x06#8 0x17#8 0x06#8 [])) =
    some (.ubxError 0x05#8 0x01#8 0#16 .badChecksum) := by decide
theorem test_uCksumBMismatch_first :
    eventOf (exec (.uCksumBMismatch 0x17#8) (ubxAt 4 8#4 0#16 0#16 0x06#8 0x17#8 0x07#8 [])) =
    some (.ubxError 0x05#8 0x01#8 0#16 .badChecksum) := by decide

/-! ### Reserved states (95_test_vectors.md §2.9) -/

theorem test_uPayloadZeroCount :
    faultOf (exec (.uPayloadZeroCount 0#8) (ubxAt 4 6#4 2#16 0#16 0#8 0#8 0#8 [])) = some .reservedState := by decide
theorem test_uReservedState9 :
    faultOf (exec (.uReservedState9 0#8) (ubxAt 4 9#4 0#16 0#16 0#8 0#8 0#8 [])) = some .reservedState := by decide
theorem test_uReservedState10To11 :
    faultOf (exec (.uReservedState10To11 1#1 0#8) (ubxAt 4 11#4 0#16 0#16 0#8 0#8 0#8 [])) =
    some .reservedState := by decide
theorem test_uReservedState12To15 :
    faultOf (exec (.uReservedState12To15 3#2 0#8) (ubxAt 4 15#4 0#16 0#16 0#8 0#8 0#8 [])) =
    some .reservedState := by decide
theorem test_dReservedState :
    faultOf (exec (.dReservedState 0#8) ((nmeaAt 4 0#2 0#16 0#8 0#8 []).gotoD 3#2)) = some .reservedState := by decide

/-! ### The dispatcher (95_test_vectors.md §2.8) -/

theorem test_dIdleNmea : statesOf (exec .dIdleNmea (nmeaAt 4 0#2 0#16 0#8 0#8 [])) = some (1#2, 1#2, 0#4) := by decide
theorem test_dIdleUbx : statesOf (exec .dIdleUbx (ubxAt 4 0#4 0#16 0#16 0#8 0#8 0#8 [])) = some (2#2, 0#2, 1#4) := by
  decide
theorem test_dIdleDiscard : statesOf (exec (.dIdleDiscard 0x62#8) (nmeaAt 4 0#2 0#16 0#8 0#8 [])) =
    some (0#2, 0#2, 0#4) := by decide
theorem test_dFwdNmea_ends :
    statesOf (exec (.dFwdNmea 0x31#8) (nmeaAt 4 3#2 1#16 0x41#8 0x40#8 [(0, 0x41#8)])) =
    some (0#2, 0#2, 0#4) := by decide
theorem test_dFwdNmea_goes_on : statesOf (exec (.dFwdNmea 0xB5#8) (nmeaAt 4 1#2 0#16 0#8 0#8 [])) =
    some (1#2, 1#2, 0#4) := by decide
theorem test_dFwdUbx_ends : statesOf (exec (.dFwdUbx 0x24#8) (ubxAt 4 1#4 0#16 0#16 0#8 0#8 0#8 [])) =
    some (0#2, 0#2, 0#4) := by decide
theorem test_dFwdUbx_goes_on : ubxAfter (exec (.dFwdUbx 0xB5#8) (ubxAt 4 6#4 3#16 3#16 0#8 0#8 0#8 [])) =
    some (6#4, 3#16, 2#16, 0xB5#8, 0xB5#8) := by decide

/-! ### Checksums (95_test_vectors.md §2.1 to §2.3) -/

theorem test_hexval_bounds : (hexval 0x2F#8, hexval 0x39#8, hexval 0x3A#8, hexval 0x40#8, hexval 0x46#8, hexval 0x47#8,
    hexval 0x60#8, hexval 0x66#8, hexval 0x67#8) =
    (none, some 9#4, none, none, some 15#4, none, none, some 15#4, none) := by decide
theorem test_nck_AX41 : nck [0x41#8, 0x58#8, 0x34#8, 0x31#8] = 0x1C#8 := by decide
theorem test_uck_ack : uck [0x05#8, 0x01#8, 0x00#8, 0x00#8] = (0x06#8, 0x17#8) := by decide
theorem test_uck_wraps : uck [0xFF#8, 0xFF#8, 0x02#8, 0x00#8, 0xFF#8, 0xFF#8] = (0xFE#8, 0xFA#8) := by decide

/-! ### The step, reset and the ports -/

/-- 95_test_vectors.md §2.10: a reset in mid frame keeps the cells and consumes no byte. -/
def resetCase : State :=
  { ubxAt 5 6#4 5#16 3#16 0#8 0#8 0#8 [(0, 0x11#8), (1, 0x22#8)] with inputs := [.cycle true true 0xB5#8] }

theorem test_reset_states : statesOf (step resetCase) = some (0#2, 0#2, 0#4) := by decide
theorem test_reset_cells : ubufOf (step resetCase) = some [(0, 0x11#8), (1, 0x22#8)] := by decide
theorem test_step_byte :
    statesOf (step { nmeaAt 4 0#2 0#16 0#8 0#8 [] with inputs := [.cycle false true 0x24#8] }) =
    some (1#2, 1#2, 0#4) := by decide
theorem test_read_out_of_range :
    refusalOf (step { nmeaAt 4 0#2 0#16 0#8 0#8 [] with inputs := [.readNbuf 5#16] }) =
    some .readOutOfRange := by decide
theorem test_read_unwritten :
    faultOf (step { nmeaAt 4 0#2 0#16 0#8 0#8 [] with inputs := [.readNbuf 0#16] }) = some .unwrittenCell := by decide
theorem test_ports_frame_class : ({ State.resetWith (caps 4 4) with
      evt := .ubxFrame 0x05#8 0x01#8 0#16 [] } : State).ports.evtClass = 0x05#8 := by decide
theorem test_ports_error : ({ State.resetWith (caps 4 4) with
      evt := .ubxError 0x05#8 0x01#8 4#16 .badChecksum } : State).ports.evtEkind = 1#1 := by decide
theorem test_fetch_dispatcher_row :
    statesOf (step ((State.resetWith (caps 4 4)).withFetchWord 16 0x024)) = some (1#2, 1#2, 0#4) := by decide
theorem test_fetch_framer_row :
    ubxAfter (step ((State.resetWith (caps 4 4)).withFetchWord 16 0x402)) =
    some (5#4, 2#16, 0#16, 0x02#8, 0x02#8) := by decide

/-! ### Witnesses: states and operands that meet the hypotheses of the statements -/

/-- One byte before the end of `"$A*41"` (95_test_vectors.md §2.5), full with capacity 1. -/
def nmeaReady : State := nmeaAt 1 3#2 1#16 0x41#8 0x40#8 [(0, 0x41#8)]

/-- One byte before the end of `B5 62 05 01 02 00 06 01 0F 38`, full with capacity 2. -/
def ubxReady : State := ubxAt 2 8#4 2#16 0#16 0x0F#8 0x38#8 0x0F#8 [(0, 0x06#8), (1, 0x01#8)]

theorem inv_nmeaReady : Inv nmeaReady :=
  ⟨⟨by decide, by decide⟩, ⟨by decide, by decide, by decide⟩,
    ⟨⟨by decide, by decide⟩, by decide,
      fun _ => ⟨[0x41#8], by decide, by decide, ⟨by decide, by decide⟩, by decide⟩, fun _ => by decide⟩,
    ⟨⟨by decide, by decide⟩, fun h => absurd h (by decide), fun h => absurd h (by decide),
      fun h => absurd h (by decide)⟩⟩

theorem inv_ubxReady : Inv ubxReady :=
  ⟨⟨by decide, by decide⟩, ⟨by decide, by decide, by decide⟩,
    ⟨⟨by decide, by decide⟩, by decide, fun h => absurd rfl h, fun h => absurd h (by decide)⟩,
    ⟨⟨by decide, by decide⟩, fun h => absurd h (by decide), fun _ => by decide,
      fun _ => ⟨[0x06#8, 0x01#8], by decide, ⟨by decide, by decide⟩, by decide⟩⟩⟩

/-- The state after a byte. -/
def afterByte (b : Byte) (s : State) : State := (nextOf (byteStep b s)).getD s

theorem next_of_isSome {o : Result} {s : State} (h : (nextOf o).isSome = true) : o = .next ((nextOf o).getD s) := by
  cases o with
  | next t => rfl
  | fault e => cases h
  | refused e => cases h

theorem byteStep_afterByte {b : Byte} {s : State} (h : (nextOf (byteStep b s)).isSome = true) :
    byteStep b s = .next (afterByte b s) := next_of_isSome h

theorem witness_DecodeOfEncode : (Instr.uReservedState12To15 3#2 0xFF#8).wf = true := by decide
theorem witness_EncodeOfDecode : decode 0x4801#16 = .ok (.uCksumBMismatch 0x01#8) := by decide
theorem witness_TransitionLiesInItsTableRow : (Instr.nLoMismatch 0x66#8).wf = true := by decide
theorem witness_UnselectedTransitionRefused : selects (.uClass 0x05#8) (State.resetWith (caps 4 4)) = false := by decide
theorem witness_StepRunsDecodedTransition :
    ({ nmeaReady with inputs := [.cycle false true 0x31#8] } : State).inputs = .cycle false true 0x31#8 :: [] := by decide
theorem witness_NIdleStartOpensFrame : (State.resetWith (caps 0 0)).nmea.state = NState.idle := by decide
theorem witness_NCollectEndEndsPayload : (nmeaAt 0 1#2 0#16 0#8 0#8 []).nmea.state = NState.collect := by decide
/-- The last free cell. -/
theorem witness_NCollectAppendStoresByte :
    (nmeaAt 4 1#2 3#16 0x40#8 0#8 []).nmea.state = NState.collect ∧ 0x24#8 ≠ star ∧
      (nmeaAt 4 1#2 3#16 0x40#8 0#8 []).nmea.len.toNat < (nmeaAt 4 1#2 3#16 0x40#8 0#8 []).cfg.nmeaCap.val := by decide
/-- Exactly full. -/
theorem witness_NCollectOverflowAborts :
    (nmeaAt 4 1#2 4#16 0x40#8 0#8 []).nmea.state = NState.collect ∧ 0x24#8 ≠ star ∧
      (nmeaAt 4 1#2 4#16 0x40#8 0#8 []).cfg.nmeaCap.val ≤ (nmeaAt 4 1#2 4#16 0x40#8 0#8 []).nmea.len.toNat := by decide
theorem witness_NHiDigitStoresHighNibble :
    (nmeaAt 4 2#2 1#16 0x41#8 0#8 []).nmea.state = NState.cksumHi ∧ hexval 0x46#8 = some 15#4 ∧
      (0x41#8 ≤ 0x46#8 ∧ (0x46#8 : Byte) ≤ 0x46#8) := by decide
theorem witness_NLoMatchDeliversFrame :
    nmeaReady.nmea.state = NState.cksumLo ∧ hexval 0x31#8 = some 1#4 ∧
      nmeaReady.nmea.exp + (1#4).setWidth 8 = nmeaReady.nmea.ck ∧
      nmeaReady.nmea.len.toNat ≤ nmeaReady.cfg.nmeaCap.val := by decide
theorem witness_NLoMismatchReportsError :
    nmeaReady.nmea.state = NState.cksumLo ∧ hexval 0x30#8 = some 0#4 ∧
      nmeaReady.nmea.exp + (0#4).setWidth 8 ≠ nmeaReady.nmea.ck ∧
      nmeaReady.nmea.len.toNat ≤ nmeaReady.cfg.nmeaCap.val := by decide
theorem witness_SilentDropsEmitNothing :
    ((nmeaAt 4 2#2 0#16 0#8 0#8 []).nmea.state = NState.cksumHi ∧ hexval 0x47#8 = none) ∧
    (nmeaReady.nmea.state = NState.cksumLo ∧ hexval 0x24#8 = none) ∧
    ((ubxAt 4 1#4 0#16 0#16 0#8 0#8 0#8 []).ubx.state = UState.sync2 ∧ 0xB5#8 ≠ sync2) ∧
    ((State.resetWith (caps 4 4)).dState = DState.idle ∧ 0x62#8 ≠ dollar ∧ 0x62#8 ≠ sync1) ∧
    ((State.resetWith (caps 4 4)).nmea.state = NState.idle ∧ 0x2A#8 ≠ dollar) ∧
    ((State.resetWith (caps 4 4)).ubx.state = UState.idle ∧ 0x62#8 ≠ sync1) := by decide
theorem witness_USyncBytesOpenFrame :
    (State.resetWith (caps 4 4)).ubx.state = UState.idle ∧
    (ubxAt 4 1#4 0#16 0#16 0#8 0#8 0#8 []).ubx.state = UState.sync2 := by decide
theorem witness_UHeaderBytesStored :
    (ubxAt 4 2#4 0#16 0#16 0#8 0#8 0#8 []).ubx.state = UState.cls ∧
    (ubxAt 4 3#4 0#16 0#16 0#8 0#8 0#8 []).ubx.state = UState.id ∧
    (ubxAt 4 4#4 0#16 0#16 0#8 0#8 0#8 []).ubx.state = UState.lenLo := by decide
theorem witness_ULenHiZeroSkipsPayload :
    (ubxAt 0 5#4 0#16 0#16 0#8 0#8 0#8 []).ubx.state = UState.lenHi ∧
    0x00#8 ++ (ubxAt 0 5#4 0#16 0#16 0#8 0#8 0#8 []).ubx.len.extractLsb' 0 8 = 0#16 := by decide
/-- One above the capacity. -/
theorem witness_ULenHiOverflowReportsCapacity :
    (ubxAt 4 5#4 5#16 0#16 0#8 0#8 0#8 []).ubx.state = UState.lenHi ∧
    (ubxAt 4 5#4 5#16 0#16 0#8 0#8 0#8 []).cfg.ubxCap.val <
      (0x00#8 ++ (ubxAt 4 5#4 5#16 0#16 0#8 0#8 0#8 []).ubx.len.extractLsb' 0 8 : BitVec 16).toNat := by decide
/-- Exactly the capacity. -/
theorem witness_ULenHiPayloadStartsCountdown :
    (ubxAt 4 5#4 4#16 0#16 0#8 0#8 0#8 []).ubx.state = UState.lenHi ∧
    0 < (0x00#8 ++ (ubxAt 4 5#4 4#16 0#16 0#8 0#8 0#8 []).ubx.len.extractLsb' 0 8 : BitVec 16).toNat ∧
    (0x00#8 ++ (ubxAt 4 5#4 4#16 0#16 0#8 0#8 0#8 []).ubx.len.extractLsb' 0 8 : BitVec 16).toNat ≤
      (ubxAt 4 5#4 4#16 0#16 0#8 0#8 0#8 []).cfg.ubxCap.val := by decide
theorem witness_UPayloadByteStored :
    (ubxAt 4 6#4 4#16 2#16 0#8 0#8 0#8 []).ubx.state = UState.payload ∧
    2 ≤ (ubxAt 4 6#4 4#16 2#16 0#8 0#8 0#8 []).ubx.cnt.toNat ∧
    ((ubxAt 4 6#4 4#16 2#16 0#8 0#8 0#8 []).ubx.len - (ubxAt 4 6#4 4#16 2#16 0#8 0#8 0#8 []).ubx.cnt).toNat <
      (ubxAt 4 6#4 4#16 2#16 0#8 0#8 0#8 []).cfg.ubxCap.val ∧
    (ubxAt 4 6#4 4#16 2#16 0#8 0#8 0#8 []).ubx.cnt.toNat ≤
      (ubxAt 4 6#4 4#16 2#16 0#8 0#8 0#8 []).ubx.len.toNat := by decide
theorem witness_UPayloadLastStored :
    (ubxAt 4 6#4 4#16 1#16 0#8 0#8 0#8 []).ubx.state = UState.payload ∧
    (ubxAt 4 6#4 4#16 1#16 0#8 0#8 0#8 []).ubx.cnt = 1#16 ∧
    ((ubxAt 4 6#4 4#16 1#16 0#8 0#8 0#8 []).ubx.len - 1#16).toNat <
      (ubxAt 4 6#4 4#16 1#16 0#8 0#8 0#8 []).cfg.ubxCap.val := by decide
theorem witness_UCksumAStoresByte : (ubxAt 4 7#4 0#16 0#16 0#8 0#8 0#8 []).ubx.state = UState.cksumA := by decide
theorem witness_UCksumBMatchDeliversFrame :
    ubxReady.ubx.state = UState.cksumB ∧ ubxReady.ubx.expA = ubxReady.ubx.ckA ∧ 0x38#8 = ubxReady.ubx.ckB := by decide
theorem witness_UCksumBMismatchReportsError :
    ubxReady.ubx.state = UState.cksumB ∧ (ubxReady.ubx.expA ≠ ubxReady.ubx.ckA ∨ 0x39#8 ≠ ubxReady.ubx.ckB) := by decide
theorem witness_UReservedStatesFault :
    ((ubxAt 4 6#4 2#16 0#16 0#8 0#8 0#8 []).ubx.state = UState.payload ∧
      (ubxAt 4 6#4 2#16 0#16 0#8 0#8 0#8 []).ubx.cnt = 0#16) ∧
    (ubxAt 4 9#4 0#16 0#16 0#8 0#8 0#8 []).ubx.state = 9#4 ∧
    (ubxAt 4 10#4 0#16 0#16 0#8 0#8 0#8 []).ubx.state = 5#3 ++ 0#1 ∧
    (ubxAt 4 15#4 0#16 0#16 0#8 0#8 0#8 []).ubx.state = 3#2 ++ 3#2 ∧
    ((nextOf (exec (.uCksumBMatch 0x38#8) ubxReady)).isSome = true ∧ ubxReady.ubx.state.toNat ≤ 8 ∧
      (ubxReady.ubx.state = UState.payload → ubxReady.ubx.cnt ≠ 0#16)) := by decide
theorem witness_DIdleRoutesStartBytes :
    (State.resetWith (caps 4 4)).dState = DState.idle ∧ (State.resetWith (caps 4 4)).nmea.state = NState.idle ∧
    (State.resetWith (caps 4 4)).ubx.state = UState.idle := by decide
theorem witness_DFwdNmeaFollowsFramer :
    nmeaReady.dState = DState.inNmea ∧ nmeaReady.nmea.len.toNat ≤ nmeaReady.cfg.nmeaCap.val := by decide
theorem witness_DFwdUbxFollowsFramer :
    (ubxAt 4 6#4 4#16 4#16 0#8 0#8 0#8 []).dState = DState.inUbx ∧
    (ubxAt 4 6#4 4#16 4#16 0#8 0#8 0#8 []).ubx.state.toNat ≤ 8 ∧
    ((ubxAt 4 6#4 4#16 4#16 0#8 0#8 0#8 []).ubx.state = UState.payload →
      1 ≤ (ubxAt 4 6#4 4#16 4#16 0#8 0#8 0#8 []).ubx.cnt.toNat ∧
      (ubxAt 4 6#4 4#16 4#16 0#8 0#8 0#8 []).ubx.cnt.toNat ≤ (ubxAt 4 6#4 4#16 4#16 0#8 0#8 0#8 []).ubx.len.toNat ∧
      (ubxAt 4 6#4 4#16 4#16 0#8 0#8 0#8 []).ubx.len.toNat ≤
        (ubxAt 4 6#4 4#16 4#16 0#8 0#8 0#8 []).cfg.ubxCap.val) := by decide
theorem witness_DReservedStateFaults :
    ((State.resetWith (caps 4 4)).gotoD DState.reserved).dState = DState.reserved ∧
    ((nextOf (exec (.dFwdNmea 0x31#8) nmeaReady)).isSome = true ∧ nmeaReady.dState ≠ DState.reserved) := by decide

theorem witness_NmeaRowsTouchOnlyNmea : (Instr.nLoMatch 0x31#8).unit = .nmea ∧
    exec (.nLoMatch 0x31#8) nmeaReady = .next ((nextOf (exec (.nLoMatch 0x31#8) nmeaReady)).getD nmeaReady) :=
  ⟨rfl, next_of_isSome (by decide)⟩
theorem witness_UbxRowsTouchOnlyUbx : (Instr.uCksumBMatch 0x38#8).unit = .ubx ∧
    exec (.uCksumBMatch 0x38#8) ubxReady = .next ((nextOf (exec (.uCksumBMatch 0x38#8) ubxReady)).getD ubxReady) :=
  ⟨rfl, next_of_isSome (by decide)⟩
theorem witness_DispatcherRowsTouchOneFramer : (Instr.dFwdUbx 0x38#8).unit = .dsp ∧
    exec (.dFwdUbx 0x38#8) ubxReady = .next ((nextOf (exec (.dFwdUbx 0x38#8) ubxReady)).getD ubxReady) :=
  ⟨rfl, next_of_isSome (by decide)⟩
/-- A transition that writes a cell, at the last index of the buffer. -/
theorem witness_OneCellWrittenAndItExists :
    exec (.nLoMatch 0x31#8) nmeaReady = .next ((nextOf (exec (.nLoMatch 0x31#8) nmeaReady)).getD nmeaReady) ∧
    readCell ((nextOf (exec (.nLoMatch 0x31#8) nmeaReady)).getD nmeaReady).nmea.buf 1 ≠
      readCell nmeaReady.nmea.buf 1 :=
  ⟨next_of_isSome (by decide), by decide⟩

theorem witness_ResetCycleClearsRegisters : resetCase.inputs = .cycle true true 0xB5#8 :: [] := by decide
/-- Reads of the last cells of both buffers after a reset, of a state whose cells hold bytes; steps that write a cell
of each buffer; reads of the first and the last cell at power-up. -/
theorem witness_ReadAfterResetFaults :
    (({ nmeaReady with inputs := [.cycle true false 0#8, .readNbuf 1#16] } : State).inputs =
      .cycle true false 0#8 :: [.readNbuf 1#16] ∧ (1#16).toNat ≤ nmeaReady.cfg.nmeaCap.val) ∧
    (({ ubxReady with inputs := [.cycle true false 0#8, .readUbuf 1#16] } : State).inputs =
      .cycle true false 0#8 :: [.readUbuf 1#16] ∧ (1#16).toNat < ubxReady.cfg.ubxCap.val) ∧
    (nextOf (step { nmeaReady with inputs := [.cycle false true 0x31#8] })).map (·.nmea.fresh) = some [0, 1] ∧
    (nextOf (step { ubxAt 4 6#4 4#16 1#16 0#8 0#8 0#8 [] with inputs := [.cycle false true 0x38#8] })).map
      (·.ubx.fresh) = some [3] ∧
    ((State.resetWith (caps 4 4)).nmea.fresh = [] ∧ (0#16).toNat ≤ (State.resetWith (caps 4 4)).cfg.nmeaCap.val) ∧
    ((State.resetWith (caps 4 4)).ubx.fresh = [] ∧ (3#16).toNat < (State.resetWith (caps 4 4)).cfg.ubxCap.val) := by decide
/-- The last cell read, the last cell not written, and the first index outside, for each buffer. -/
theorem witness_ConsumerReadReturnsCell :
    ((0#16).toNat ≤ nmeaReady.cfg.nmeaCap.val ∧ (0#16).toNat ∈ nmeaReady.nmea.fresh ∧
      readCell nmeaReady.nmea.buf (0#16).toNat = some 0x41#8) ∧
    ((1#16).toNat ≤ nmeaReady.cfg.nmeaCap.val ∧ (1#16).toNat ∉ nmeaReady.nmea.fresh) ∧
    nmeaReady.cfg.nmeaCap.val < (2#16).toNat ∧
    ((1#16).toNat < ubxReady.cfg.ubxCap.val ∧ (1#16).toNat ∈ ubxReady.ubx.fresh ∧
      readCell ubxReady.ubx.buf (1#16).toNat = some 0x01#8) ∧
    ((3#16).toNat < (ubxAt 4 0#4 0#16 0#16 0#8 0#8 0#8 []).cfg.ubxCap.val ∧
      (3#16).toNat ∉ (ubxAt 4 0#4 0#16 0#16 0#8 0#8 0#8 []).ubx.fresh) ∧
    ubxReady.cfg.ubxCap.val ≤ (2#16).toNat := by decide
theorem witness_CycleWithoutByteHolds :
    ({ nmeaReady with inputs := [.cycle false false 0x31#8] } : State).inputs = .cycle false false 0x31#8 :: [] ∧
    nmeaReady.inputs = [] := by decide
/-- An event of each kind; the zero clauses of the class, id and error-kind ports at kinds 3 and 4. -/
theorem witness_PortsShowTheEvent :
    ({ nmeaReady with evt := .none } : State).evt = .none ∧
    ({ nmeaReady with evt := .nmeaFrame 1#16 [some 0x41#8] } : State).evt = .nmeaFrame 1#16 [some 0x41#8] ∧
    ({ nmeaReady with evt := .nmeaChecksumError 0#16 [] } : State).evt = .nmeaChecksumError 0#16 [] ∧
    (({ nmeaReady with evt := .nmeaOverflow 1#16 } : State).evt = .nmeaOverflow 1#16 ∧
      ({ nmeaReady with evt := .nmeaOverflow 1#16 } : State).ports.evtKind ≠ 4#3 ∧
      ({ nmeaReady with evt := .nmeaOverflow 1#16 } : State).ports.evtKind ≠ 5#3) ∧
    (({ nmeaReady with evt := .ubxFrame 5#8 1#8 0#16 [] } : State).evt = .ubxFrame 5#8 1#8 0#16 [] ∧
      ({ nmeaReady with evt := .ubxFrame 5#8 1#8 0#16 [] } : State).ports.evtKind ≠ 5#3) ∧
    ({ nmeaReady with evt := .ubxError 5#8 1#8 0#16 .bufferOverflow } : State).evt =
      .ubxError 5#8 1#8 0#16 .bufferOverflow := by decide

/-! ### The observation of a run (43_dispatcher.md §3; the frame is `"$A*41"` of 95_test_vectors.md §2.5) -/

/-- The last byte of `"$A*41"` with a cycle without a byte and a read before it and a read of the sentinel after
it. -/
def observedCase : State :=
  { nmeaReady with inputs := [.cycle false false 0#8, .readNbuf 0#16, .cycle false true 0x31#8, .readNbuf 1#16] }

theorem test_observe_events :
    (observe observedCase).map (fun o => (o.bytes, o.events)) = some (1, [(1, .nmeaFrame 1#16 [some 0x41#8])]) := by
  decide
theorem test_observe_reads : (observe observedCase).map (·.reads) =
    some [⟨0, .nbuf, 0, 0x41#8⟩, ⟨1, .nbuf, 1, 0x00#8⟩] := by decide
theorem test_observe_starts_at_reset :
    (observe { nmeaReady with inputs := [.cycle false true 0x31#8, .cycle true false 0#8] }).map
      (fun o => (o.bytes, o.events)) = some (0, []) := by decide

theorem witness_StepKeepsInvariant :
    Inv { nmeaReady with inputs := [.cycle false true 0x31#8] } ∧
    step { nmeaReady with inputs := [.cycle false true 0x31#8] } =
      .next ((nextOf (step { nmeaReady with inputs := [.cycle false true 0x31#8] })).getD nmeaReady) :=
  ⟨inv_nmeaReady, next_of_isSome (by decide)⟩
theorem witness_CouplingHolds :
    Coupled { ubxReady with inputs := [.cycle false true 0x38#8] } ∧
    step { ubxReady with inputs := [.cycle false true 0x38#8] } =
      .next ((nextOf (step { ubxReady with inputs := [.cycle false true 0x38#8] })).getD ubxReady) ∧
    (Coupled nmeaReady ∧ nmeaReady.dState ≠ DState.reserved ∧ nmeaReady.dState = DState.inNmea) ∧
    (Coupled ubxReady ∧ ubxReady.dState ≠ DState.reserved ∧ ubxReady.dState = DState.inUbx) :=
  ⟨inv_ubxReady.2.1, next_of_isSome (by decide), ⟨inv_nmeaReady.2.1, by decide, by decide⟩,
    ⟨inv_ubxReady.2.1, by decide, by decide⟩⟩
theorem witness_NoByteStopsTheBlock : Inv ubxReady := inv_ubxReady

/-- A reported error. -/
theorem witness_ErrorsLeaveBlockIdle :
    Inv nmeaReady ∧ byteStep 0x30#8 nmeaReady = .next (afterByte 0x30#8 nmeaReady) ∧
    (afterByte 0x30#8 nmeaReady).evt.isError = true :=
  ⟨inv_nmeaReady, byteStep_afterByte (by decide), by decide⟩
/-- A silent drop in `CKSUM_LO`. -/
theorem witness_ErrorsLeaveBlockIdle_drop :
    Inv nmeaReady ∧ byteStep 0x24#8 nmeaReady = .next (afterByte 0x24#8 nmeaReady) ∧
    nmeaReady.dState = DState.inNmea ∧ nmeaReady.nmea.state = NState.cksumLo ∧ hexval 0x24#8 = none :=
  ⟨inv_nmeaReady, byteStep_afterByte (by decide), by decide, by decide, by decide⟩
/-- A failed second sync byte. -/
theorem witness_ErrorsLeaveBlockIdle_sync :
    Inv (ubxAt 4 1#4 0#16 0#16 0#8 0#8 0#8 []) ∧
    byteStep 0xB5#8 (ubxAt 4 1#4 0#16 0#16 0#8 0#8 0#8 []) =
      .next (afterByte 0xB5#8 (ubxAt 4 1#4 0#16 0#16 0#8 0#8 0#8 [])) ∧
    (ubxAt 4 1#4 0#16 0#16 0#8 0#8 0#8 []).dState = DState.inUbx ∧
    (ubxAt 4 1#4 0#16 0#16 0#8 0#8 0#8 []).ubx.state = UState.sync2 ∧ 0xB5#8 ≠ sync2 :=
  ⟨⟨⟨by decide, by decide⟩, ⟨by decide, by decide, by decide⟩,
      ⟨⟨by decide, by decide⟩, by decide, fun h => absurd rfl h, fun h => absurd h (by decide)⟩,
      ⟨⟨by decide, by decide⟩, fun h => absurd h (by decide), fun h => absurd h (by decide),
        fun h => absurd h (by decide)⟩⟩,
    byteStep_afterByte (by decide), by decide, by decide, by decide⟩

/-- A delivered NMEA frame. -/
theorem witness_DeliveredFramesAreValid :
    Inv nmeaReady ∧ byteStep 0x31#8 nmeaReady = .next (afterByte 0x31#8 nmeaReady) ∧
    (afterByte 0x31#8 nmeaReady).evt = .nmeaFrame 1#16 [some 0x41#8] :=
  ⟨inv_nmeaReady, byteStep_afterByte (by decide), by decide⟩
/-- A delivered UBX frame. -/
theorem witness_DeliveredFramesAreValid_ubx :
    Inv ubxReady ∧ byteStep 0x38#8 ubxReady = .next (afterByte 0x38#8 ubxReady) ∧
    (afterByte 0x38#8 ubxReady).evt = .ubxFrame 0x05#8 0x01#8 2#16 [some 0x06#8, some 0x01#8] :=
  ⟨inv_ubxReady, byteStep_afterByte (by decide), by decide⟩
/-- A reported NMEA checksum error with its last payload byte; the frame cases are the two witnesses above. -/
theorem witness_DeliveredPayloadIsReadable :
    Inv nmeaReady ∧ byteStep 0x30#8 nmeaReady = .next (afterByte 0x30#8 nmeaReady) ∧
    (afterByte 0x30#8 nmeaReady).evt = .nmeaChecksumError 1#16 [some 0x41#8] ∧ 0 < (1#16).toNat :=
  ⟨inv_nmeaReady, byteStep_afterByte (by decide), by decide, by decide⟩
/-- One byte after an NMEA frame. -/
theorem witness_PayloadSurvivesItsLifetime :
    Coupled nmeaReady ∧ byteStep 0x31#8 nmeaReady = .next (afterByte 0x31#8 nmeaReady) ∧
    (afterByte 0x31#8 nmeaReady).evt = .nmeaFrame 1#16 [some 0x41#8] ∧
    blockFeed [dollar] (afterByte 0x31#8 nmeaReady) =
      some ([.none], afterByte dollar (afterByte 0x31#8 nmeaReady)) ∧ [dollar].length ≤ 1 :=
  ⟨inv_nmeaReady.2.1, byteStep_afterByte (by decide), by decide, by decide, by decide⟩
/-- Six bytes after a UBX frame: the header of the next one. -/
theorem witness_PayloadSurvivesItsLifetime_ubx :
    Coupled ubxReady ∧ byteStep 0x38#8 ubxReady = .next (afterByte 0x38#8 ubxReady) ∧
    (afterByte 0x38#8 ubxReady).evt = .ubxFrame 0x05#8 0x01#8 2#16 [some 0x06#8, some 0x01#8] ∧
    (blockFeed [0xB5#8, 0x62#8, 0x01#8, 0x02#8, 0x01#8, 0x00#8] (afterByte 0x38#8 ubxReady)).isSome = true ∧
    [0xB5#8, 0x62#8, 0x01#8, 0x02#8, 0x01#8, 0x00#8].length ≤ 6 :=
  ⟨inv_ubxReady.2.1, byteStep_afterByte (by decide), by decide, by decide, by decide⟩

/-- The clauses at their bounds. -/
theorem witness_HexvalDecodesHexDigits :
    (0x30#8 ≤ 0x30#8 ∧ (0x39#8 : Byte) ≤ 0x39#8) ∧ (0x41#8 ≤ 0x41#8 ∧ (0x46#8 : Byte) ≤ 0x46#8) ∧
    (0x61#8 ≤ 0x61#8 ∧ (0x66#8 : Byte) ≤ 0x66#8) := by decide
theorem witness_NckOrderIrrelevant : [0x41#8, 0x42#8].Perm [0x42#8, 0x41#8] := by decide
theorem witness_ChecksumsDetectOneByteChange : 0x41#8 ≠ 0x42#8 := by decide
/-- An idle framer, a payload that fills the buffer, valid digits; then one byte too many; then bad digits. -/
theorem witness_NmeaFrameRecognised :
    ((State.resetWith (caps 1 4)).nmea.state = NState.idle ∧ star ∉ [0x4A#8] ∧
      [0x4A#8].length ≤ (State.resetWith (caps 1 4)).cfg.nmeaCap.val ∧ hexval 0x34#8 = some 4#4 ∧
      hexval 0x61#8 = some 10#4) ∧
    (star ∉ [0x4A#8, 0x24#8] ∧ [0x4A#8, 0x24#8].length = (State.resetWith (caps 1 4)).cfg.nmeaCap.val + 1) ∧
    hexval 0x47#8 = none ∧ (hexval 0x34#8).isSome = true := by decide
/-- An idle framer, a payload of exactly the capacity, and one above it. -/
theorem witness_UbxFrameRecognised :
    ((State.resetWith (caps 4 2)).ubx.state = UState.idle ∧ [0x06#8, 0x01#8].length ≤ 65535 ∧
      [0x06#8, 0x01#8].length ≤ (State.resetWith (caps 4 2)).cfg.ubxCap.val) ∧
    (State.resetWith (caps 4 2)).cfg.ubxCap.val < [0x06#8, 0x01#8, 0x02#8].length := by decide
theorem witness_BlockDeliversValidFrames :
    AllIdle (State.resetWith (caps 1 2)) ∧
    (star ∉ [0x4A#8] ∧ [0x4A#8].length ≤ (State.resetWith (caps 1 2)).cfg.nmeaCap.val ∧ hexval 0x34#8 = some 4#4 ∧
      hexval 0x61#8 = some 10#4 ∧ 4#4 ++ 10#4 = nck [0x4A#8]) ∧
    ([0x06#8, 0x01#8].length ≤ (State.resetWith (caps 1 2)).cfg.ubxCap.val ∧
      uck (ubxHeader 0x05#8 0x00#8 (BitVec.ofNat 16 [0x06#8, 0x01#8].length) ++ [0x06#8, 0x01#8]) =
        (0x0E#8, 0x33#8)) :=
  ⟨⟨by decide, by decide, by decide⟩, by decide, by decide⟩
/-- A stream with a cycle without a byte and two reads that answer, and a stream of cycles alone. -/
theorem witness_IdleCyclesAndReadsAreTransparent :
    ((∀ x ∈ observedCase.inputs, x.isReset = false) ∧ (observe observedCase).isSome = true ∧
      (observe observedCase).map (·.reads.length) = some 2) ∧
    ((∀ x ∈ [Stimulus.cycle false false 0#8, .cycle false true 0x31#8], x.isReset = false ∧ x.isRead = false) ∧
      (blockFeed (bytesOf [Stimulus.cycle false false 0#8, .cycle false true 0x31#8]) nmeaReady).isSome = true) := by
  decide
theorem witness_RunOfCyclesIsFeeding :
    ({ State.resetWith (caps 1 2) with inputs := byteCycles [0x24#8, 0x2A#8] } : State).inputs =
      byteCycles [0x24#8, 0x2A#8] ∧
    (blockFeed [0x24#8, 0x2A#8] (State.resetWith (caps 1 2))).isSome = true := by decide
/-- Two idle states that differ in their data registers and cells. -/
theorem witness_DataRegistersUnobservableWhenIdle :
    AllIdle (nmeaAt 4 0#2 7#16 0x5A#8 0x30#8 [(0, 0x41#8)]) ∧ AllIdle (State.resetWith (caps 4 4)) ∧
    (nmeaAt 4 0#2 7#16 0x5A#8 0x30#8 [(0, 0x41#8)]).cfg = (State.resetWith (caps 4 4)).cfg :=
  ⟨⟨by decide, by decide, by decide⟩, ⟨by decide, by decide, by decide⟩, by decide⟩

end Sys2Proof.Tests
end

section
/-! PROOF. The hex-digit decode: one equation per range of bytes (40_checksum.md R100), what it answers as a number,
and which bytes it answers. -/

namespace Sys2Proof.Machine

/-! ### The decode, range by range -/

theorem hexval_of_decimal {b : Byte} (h : 0x30#8 ≤ b ∧ b ≤ 0x39#8) :
    hexval b = some ((b - 0x30#8).setWidth 4) := if_pos h

theorem hexval_of_upper {b : Byte} (h : 0x41#8 ≤ b ∧ b ≤ 0x46#8) :
    hexval b = some ((b - 0x41#8 + 10#8).setWidth 4) := by
  have not_decimal : ¬(0x30#8 ≤ b ∧ b ≤ 0x39#8) := by bv_omega
  rw [hexval, if_neg not_decimal, if_pos h]

theorem hexval_of_lower {b : Byte} (h : 0x61#8 ≤ b ∧ b ≤ 0x66#8) :
    hexval b = some ((b - 0x61#8 + 10#8).setWidth 4) := by
  have not_decimal : ¬(0x30#8 ≤ b ∧ b ≤ 0x39#8) := by bv_omega
  have not_upper : ¬(0x41#8 ≤ b ∧ b ≤ 0x46#8) := by bv_omega
  rw [hexval, if_neg not_decimal, if_neg not_upper, if_pos h]

/-- The valid bytes are those of the three ranges: class `HEX` of 30_encoding.md R71. -/
theorem hexval_isSome_iff (b : Byte) :
    (hexval b).isSome = true ↔
      (0x30#8 ≤ b ∧ b ≤ 0x39#8) ∨ (0x41#8 ≤ b ∧ b ≤ 0x46#8) ∨ (0x61#8 ≤ b ∧ b ≤ 0x66#8) := by
  constructor
  · intro valid
    by_contra outside
    simp only [not_or] at outside
    obtain ⟨not_decimal, not_upper, not_lower⟩ := outside
    simp [hexval, if_neg not_decimal, if_neg not_upper, if_neg not_lower] at valid
  · rintro (h | h | h)
    · simp [hexval_of_decimal h]
    · simp [hexval_of_upper h]
    · simp [hexval_of_lower h]

/-! ### The value as a number -/

/-- A value below 16 survives the cut to the 4 bits of a digit. -/
theorem toNat_setWidth_digit {x : Byte} (h : x ≤ 15#8) : (x.setWidth 4).toNat = x.toNat := by
  bv_omega

theorem hexval_toNat_of_decimal {b : Byte} (h : 0x30#8 ≤ b ∧ b ≤ 0x39#8) :
    (hexval b).map BitVec.toNat = some (b.toNat - 0x30) := by
  rw [hexval_of_decimal h, Option.map_some, toNat_setWidth_digit (by bv_omega)]
  congr 1
  bv_omega

theorem hexval_toNat_of_upper {b : Byte} (h : 0x41#8 ≤ b ∧ b ≤ 0x46#8) :
    (hexval b).map BitVec.toNat = some (b.toNat - 0x41 + 10) := by
  rw [hexval_of_upper h, Option.map_some, toNat_setWidth_digit (by bv_omega)]
  congr 1
  bv_omega

theorem hexval_toNat_of_lower {b : Byte} (h : 0x61#8 ≤ b ∧ b ≤ 0x66#8) :
    (hexval b).map BitVec.toNat = some (b.toNat - 0x61 + 10) := by
  rw [hexval_of_lower h, Option.map_some, toNat_setWidth_digit (by bv_omega)]
  congr 1
  bv_omega

/-- An upper-case digit and its lower-case form, `0x20` above it, have one value. -/
theorem hexval_lower_of_upper {b : Byte} (h : 0x41#8 ≤ b ∧ b ≤ 0x46#8) :
    hexval (b + 0x20#8) = hexval b := by
  have lower : 0x61#8 ≤ b + 0x20#8 ∧ b + 0x20#8 ≤ 0x66#8 := by bv_omega
  have same_offset : b + 0x20#8 - 0x61#8 = b - 0x41#8 := by bv_omega
  rw [hexval_of_lower lower, hexval_of_upper h, same_offset]

/-- The three ranges hold 10, 6 and 6 of the 256 bytes. -/
theorem hexval_valid_count :
    ((List.range 256).filter fun n => (hexval (BitVec.ofNat 8 n)).isSome).length = 22 := by
  decide

/-- Settles O51, range by range: each clause is the decode's own lemma for that range. -/
theorem hexvalDecodesHexDigits : Obligations.HexvalDecodesHexDigits := by
  intro b
  exact ⟨hexval_toNat_of_decimal, fun h => ⟨hexval_toNat_of_upper h, hexval_lower_of_upper h⟩,
    hexval_toNat_of_lower, hexval_isSome_iff b, hexval_valid_count⟩

end Sys2Proof.Machine
end

section
/-! PROOF. What each row of the NMEA framer does in the state that selects it (41_nmea_framer.md R120 to R129): one
equation per row, the row statements from them, and `nmea_step` (R130) in each framer state. -/

namespace Sys2Proof.Machine

/-! ### Digits -/

theorem isHex_of_some {b : Byte} {v : BitVec 4} (h : hexval b = some v) : isHex b = true := by
  simp [isHex, h]

theorem isHex_of_none {b : Byte} (h : hexval b = none) : isHex b = false := by
  simp [isHex, h]

/-- On a digit the comparison of R127 and R128 is that of the completed `n_exp` with `n_ck`. -/
theorem nDigitsMatch_of_some {s : State} {b : Byte} {v : BitVec 4} (h : hexval b = some v) :
    nDigitsMatch s b = (s.nmea.exp + v.setWidth 8 == s.nmea.ck) := by
  simp [nDigitsMatch, h]

/-- Sixteen times a digit is the digit as the high nibble. -/
theorem sixteen_mul_digit (v : BitVec 4) : 16#8 * v.setWidth 8 = v ++ 0#4 := by
  revert v
  decide

/-- A second digit fills the low nibble. -/
theorem high_nibble_add_digit (v w : BitVec 4) : (v ++ 0#4 : Byte) + w.setWidth 8 = v ++ w := by
  revert v w
  decide

/-! ### The rows -/

section
variable {s : State}

theorem exec_nIdleStart (idle : s.nmea.state = NState.idle) :
    exec .nIdleStart s = .next
      ((s.setNmea { s.nmea with ck := 0#8, len := 0#16, state := NState.collect }).emit .none) :=
  whenSelected_of_selects _ ((selects_nIdleStart s).2 idle)

theorem exec_nCollectEnd (collect : s.nmea.state = NState.collect) :
    exec .nCollectEnd s = .next ((s.setNmea { s.nmea with state := NState.cksumHi }).emit .none) :=
  whenSelected_of_selects _ ((selects_nCollectEnd s).2 collect)

/-- The state in which R123 leaves the block. -/
def appended (s : State) (b : Byte) : State :=
  (s.setNmea { s.nmea.store s.nmea.len.toNat b with
    ck := nckUpdate s.nmea.ck b, len := s.nmea.len + 1#16 }).emit .none

theorem exec_nCollectAppend {b : Byte} (collect : s.nmea.state = NState.collect) (payload : b ≠ star)
    (room : s.nmea.len.toNat < s.nmeaCap) : exec (.nCollectAppend b) s = .next (appended s b) := by
  have selected := (selects_nCollectAppend s b).2 ⟨payload, collect, room⟩
  calc exec (.nCollectAppend b) s
      = onNext (storeNbuf s s.nmea.len.toNat b) _ := whenSelected_of_selects _ selected
    _ = .next (appended s b) := by rw [storeNbuf_of_le b room.le]; rfl

theorem exec_nCollectOverflow {b : Byte} (collect : s.nmea.state = NState.collect) (payload : b ≠ star)
    (full : s.nmeaCap ≤ s.nmea.len.toNat) :
    exec (.nCollectOverflow b) s = .next (abortNmea s (.nmeaOverflow (BitVec.ofNat 16 s.nmeaCap))) :=
  whenSelected_of_selects _ ((selects_nCollectOverflow s b).2 ⟨payload, collect, full⟩)

theorem exec_nHiDigit {b : Byte} {v : BitVec 4} (high : s.nmea.state = NState.cksumHi)
    (digit : hexval b = some v) :
    exec (.nHiDigit b) s = .next
      ((s.setNmea { s.nmea with exp := v ++ 0#4, state := NState.cksumLo }).emit .none) := by
  have selected := (selects_nHiDigit s b).2 ⟨isHex_of_some digit, high⟩
  calc exec (.nHiDigit b) s
      = onDigit b _ := whenSelected_of_selects _ selected
    _ = _ := by rw [onDigit_of_some _ digit, sixteen_mul_digit]

theorem exec_nHiBad {b : Byte} (high : s.nmea.state = NState.cksumHi) (bad : hexval b = none) :
    exec (.nHiBad b) s = .next (abortNmea s .none) :=
  whenSelected_of_selects _ ((selects_nHiBad s b).2 ⟨isHex_of_none bad, high⟩)

/-- The state in which R127 and R128 leave the block when `b` has the value `v`: they differ in the event only. -/
def completed (s : State) (v : BitVec 4) (e : Event) : State :=
  (s.setNmea { s.nmea.store s.nmea.len.toNat sentinel with
    exp := s.nmea.exp + v.setWidth 8, state := NState.idle }).emit e

@[simp] theorem completed_evt (s : State) (v : BitVec 4) (e : Event) : (completed s v e).evt = e := rfl

/-- The body of both completing rows on a digit, with a cell for the sentinel. -/
theorem finishNmea_of_digit {b : Byte} {v : BitVec 4} (report : Half → List (Option Byte) → Event)
    (digit : hexval b = some v) (room : s.nmea.len.toNat ≤ s.nmeaCap) :
    finishNmea b s report = .next
      (completed s v (report s.nmea.len (slice s.nmea.buf s.nmea.len.toNat))) :=
  finishNmea_eq_next.2 ⟨v, digit, room, rfl⟩

theorem exec_nLoMatch {b : Byte} {v : BitVec 4} (low : s.nmea.state = NState.cksumLo)
    (digit : hexval b = some v) (valid : s.nmea.exp + v.setWidth 8 = s.nmea.ck)
    (room : s.nmea.len.toNat ≤ s.nmeaCap) :
    exec (.nLoMatch b) s = .next
      (completed s v (.nmeaFrame s.nmea.len (slice s.nmea.buf s.nmea.len.toNat))) := by
  have agree : nDigitsMatch s b = true := by simp [nDigitsMatch_of_some digit, valid]
  have selected := (selects_nLoMatch s b).2 ⟨isHex_of_some digit, low, agree⟩
  exact (whenSelected_of_selects _ selected).trans (finishNmea_of_digit _ digit room)

theorem exec_nLoMismatch {b : Byte} {v : BitVec 4} (low : s.nmea.state = NState.cksumLo)
    (digit : hexval b = some v) (invalid : s.nmea.exp + v.setWidth 8 ≠ s.nmea.ck)
    (room : s.nmea.len.toNat ≤ s.nmeaCap) :
    exec (.nLoMismatch b) s = .next
      (completed s v (.nmeaChecksumError s.nmea.len (slice s.nmea.buf s.nmea.len.toNat))) := by
  have differ : nDigitsMatch s b = false := by simp [nDigitsMatch_of_some digit, invalid]
  have selected := (selects_nLoMismatch s b).2 ⟨isHex_of_some digit, low, differ⟩
  exact (whenSelected_of_selects _ selected).trans (finishNmea_of_digit _ digit room)

theorem exec_nLoBad {b : Byte} (low : s.nmea.state = NState.cksumLo) (bad : hexval b = none) :
    exec (.nLoBad b) s = .next (abortNmea s .none) :=
  whenSelected_of_selects _ ((selects_nLoBad s b).2 ⟨isHex_of_none bad, low⟩)

/-! ### `nmea_step` in each state -/

theorem nmeaStep_of_idle (b : Byte) (idle : s.nmea.state = NState.idle) :
    nmeaStep b s = if b = dollar then exec .nIdleStart s else exec (.nIdleIgnore b) s := by
  rw [nmeaStep, if_pos idle]
  rfl

theorem nmeaStep_of_collect (b : Byte) (collect : s.nmea.state = NState.collect) :
    nmeaStep b s = if b = star then exec .nCollectEnd s
      else if s.nmea.len.toNat < s.nmeaCap then exec (.nCollectAppend b) s
      else exec (.nCollectOverflow b) s := by
  simp [nmeaStep, collect, nHasRoom, exec]

theorem nmeaStep_of_cksumHi (b : Byte) (high : s.nmea.state = NState.cksumHi) :
    nmeaStep b s = if isHex b then exec (.nHiDigit b) s else exec (.nHiBad b) s := by
  simp [nmeaStep, high, NState.idle, NState.collect, NState.cksumHi, exec]

theorem nmeaStep_of_cksumLo (b : Byte) (low : s.nmea.state = NState.cksumLo) :
    nmeaStep b s = if isHex b then
        if nDigitsMatch s b then exec (.nLoMatch b) s else exec (.nLoMismatch b) s
      else exec (.nLoBad b) s := by
  simp [nmeaStep, low, NState.idle, NState.collect, NState.cksumHi, NState.cksumLo, exec]

end

/-! ### The row statements -/

/-- Settles O11, by the row's equation. -/
theorem nIdleStartOpensFrame : Obligations.NIdleStartOpensFrame :=
  ⟨rfl, fun _ idle => exec_nIdleStart idle⟩

/-- Settles O13, by the row's equation and the law of one `NBUF` write. -/
theorem nCollectAppendStoresByte : Obligations.NCollectAppendStoresByte := by
  intro s b collect payload room
  refine ⟨rfl, appended s b, exec_nCollectAppend collect payload room, rfl, fun a => ?_, fun a => ?_⟩
  · exact readCell_writeCell s.nmea.buf s.nmea.len.toNat a b
  · exact mem_markFresh s.nmea.fresh s.nmea.len.toNat a

/-- Settles O15, by the row's equation; the letter case is the decode's own lemma. -/
theorem nHiDigitStoresHighNibble : Obligations.NHiDigitStoresHighNibble := by
  intro s b v high digit
  exact ⟨rfl, exec_nHiDigit high digit, fun upper => (hexval_lower_of_upper upper).trans digit⟩

/-- Settles O17, by the row's equation and the law of the sentinel's write. -/
theorem nLoMismatchReportsError : Obligations.NLoMismatchReportsError := by
  intro s b v low digit invalid room
  refine ⟨rfl, _, exec_nLoMismatch low digit invalid room, rfl, fun a => ?_, fun a => ?_⟩
  · exact readCell_writeCell s.nmea.buf s.nmea.len.toNat a sentinel
  · exact mem_markFresh s.nmea.fresh s.nmea.len.toNat a

end Sys2Proof.Machine
end

section
/-! PROOF. Feeding a stretch of bytes that reports nothing: how such stretches join and what comes after one. -/

namespace Sys2Proof.Machine

/-- Feeding `l` from `s` ends in `t` and no step of it reports an event. -/
def FeedsQuietly (f : Byte → State → Result) (l : List Byte) (s t : State) : Prop :=
  feedBy f l s = some (List.replicate l.length Event.none, t)

section
variable {f : Byte → State → Result} {l m : List Byte} {s t u : State}

theorem feedsQuietly_nil : FeedsQuietly f [] s s := rfl

theorem feedsQuietly_cons {b : Byte} (first : f b s = .next t) (quiet : t.evt = .none)
    (rest : FeedsQuietly f l t u) : FeedsQuietly f (b :: l) s u := by
  unfold FeedsQuietly at rest ⊢
  rw [feedBy_of_next first, rest, quiet]
  rfl

theorem feedsQuietly_single {b : Byte} (step : f b s = .next t) (quiet : t.evt = .none) :
    FeedsQuietly f [b] s t := feedsQuietly_cons step quiet feedsQuietly_nil

/-- One byte that answers gives its event. -/
theorem feedBy_single {b : Byte} (step : f b s = .next t) : feedBy f [b] s = some ([t.evt], t) := by
  rw [feedBy_of_next step]
  rfl

/-- Feeding two stretches is feeding the second from where the first ends. -/
theorem feedBy_append {es : List Event} (h : feedBy f l s = some (es, t)) :
    feedBy f (l ++ m) s = (feedBy f m t).map fun r => (es ++ r.1, r.2) := by
  induction l generalizing s es with
  | nil =>
    cases h
    simp
  | cons b l ih =>
    obtain ⟨v, fs, first, rest, rfl⟩ := feedBy_cons_eq_some.1 h
    rw [List.cons_append, feedBy_of_next first, ih rest, Option.map_map]
    rfl

theorem FeedsQuietly.append (h : FeedsQuietly f l s t) (h' : FeedsQuietly f m t u) :
    FeedsQuietly f (l ++ m) s u := by
  unfold FeedsQuietly at h h' ⊢
  simp [feedBy_append h, h']

/-- A quiet stretch and one more byte: the events are silence and that byte's event. -/
theorem FeedsQuietly.then_byte {b : Byte} (h : FeedsQuietly f l s t) (last : f b t = .next u) :
    feedBy f (l ++ [b]) s = some (List.replicate l.length Event.none ++ [u.evt], u) := by
  simp [feedBy_append h, feedBy_single last]

end

end Sys2Proof.Machine
end

section
/-! PROOF. The NMEA framer through a whole frame (41_nmea_framer.md R131): what it holds after every stretch of the
frame, and how the frame ends. -/

namespace Sys2Proof.Machine

/-! ### Inside a frame -/

/-- The NMEA framer is in state `c` of a frame whose payload so far is `p`: it is counted, accumulated and
stored, and it fits the capacity. -/
structure InFrame (cfg : Config) (p : List Byte) (c : BitVec 2) (s : State) : Prop where
  cfg_eq : s.cfg = cfg
  state_eq : s.nmea.state = c
  len_eq : s.nmea.len = BitVec.ofNat 16 p.length
  ck_eq : s.nmea.ck = nck p
  payload_eq : slice s.nmea.buf p.length = p.map some
  fits : p.length ≤ cfg.nmeaCap.val

/-- One more byte in the checksum (R102). -/
theorem nck_concat (p : List Byte) (b : Byte) : nck (p ++ [b]) = nckUpdate (nck p) b := by
  simp [nck]

section
variable {cfg : Config} {p : List Byte} {c : BitVec 2} {s : State}

theorem InFrame.nmeaCap_eq (h : InFrame cfg p c s) : s.nmeaCap = cfg.nmeaCap.val := by
  rw [State.nmeaCap, h.cfg_eq]

theorem InFrame.len_toNat (h : InFrame cfg p c s) : s.nmea.len.toNat = p.length := by
  have fits := h.fits
  have bound := cfg.nmeaCap.isLt
  rw [h.len_eq, BitVec.toNat_ofNat]
  omega

/-- There is a cell for the sentinel. -/
theorem InFrame.room_for_sentinel (h : InFrame cfg p c s) : s.nmea.len.toNat ≤ s.nmeaCap := by
  rw [h.len_toNat, h.nmeaCap_eq]
  exact h.fits

/-- The payload an event of this frame refers to. -/
theorem InFrame.reported_payload (h : InFrame cfg p c s) :
    slice s.nmea.buf s.nmea.len.toNat = p.map some := by
  rw [h.len_toNat, h.payload_eq]

/-! ### One byte inside a frame -/

theorem nmeaStep_opens_frame (idle : s.nmea.state = NState.idle) :
    ∃ t, nmeaStep dollar s = .next t ∧ t.evt = .none ∧ InFrame s.cfg [] NState.collect t := by
  rw [nmeaStep_of_idle dollar idle, if_pos rfl, exec_nIdleStart idle]
  exact ⟨_, rfl, rfl, rfl, rfl, rfl, rfl, rfl, Nat.zero_le _⟩

theorem appended_inFrame (h : InFrame cfg p NState.collect s) (b : Byte) (room : p.length < cfg.nmeaCap.val) :
    InFrame cfg (p ++ [b]) NState.collect (appended s b) where
  cfg_eq := h.cfg_eq
  state_eq := h.state_eq
  len_eq := by simp [appended, h.len_eq, BitVec.ofNat_add]
  ck_eq := by simp [appended, h.ck_eq, nck_concat]
  payload_eq := by simp [appended, h.len_toNat, slice_writeCell_succ, h.payload_eq]
  fits := by simpa using room

theorem InFrame.step_payload {b : Byte} (h : InFrame cfg p NState.collect s) (payload : b ≠ star)
    (room : p.length < cfg.nmeaCap.val) :
    ∃ t, nmeaStep b s = .next t ∧ t.evt = .none ∧ InFrame cfg (p ++ [b]) NState.collect t := by
  have space : s.nmea.len.toNat < s.nmeaCap := by rwa [h.len_toNat, h.nmeaCap_eq]
  rw [nmeaStep_of_collect b h.state_eq, if_neg payload, if_pos space,
    exec_nCollectAppend h.state_eq payload space]
  exact ⟨_, rfl, rfl, appended_inFrame h b room⟩

theorem InFrame.step_overflow {b : Byte} (h : InFrame cfg p NState.collect s) (payload : b ≠ star)
    (full : p.length = cfg.nmeaCap.val) :
    nmeaStep b s = .next (abortNmea s (.nmeaOverflow (BitVec.ofNat 16 cfg.nmeaCap.val))) := by
  have no_space : s.nmeaCap ≤ s.nmea.len.toNat := by rw [h.len_toNat, h.nmeaCap_eq, full]
  rw [nmeaStep_of_collect b h.state_eq, if_neg payload, if_neg no_space.not_gt,
    exec_nCollectOverflow h.state_eq payload no_space, h.nmeaCap_eq]

theorem InFrame.step_star (h : InFrame cfg p NState.collect s) :
    ∃ t, nmeaStep star s = .next t ∧ t.evt = .none ∧ InFrame cfg p NState.cksumHi t := by
  rw [nmeaStep_of_collect star h.state_eq, if_pos rfl, exec_nCollectEnd h.state_eq]
  exact ⟨_, rfl, rfl, h.cfg_eq, rfl, h.len_eq, h.ck_eq, h.payload_eq, h.fits⟩

theorem InFrame.step_high_digit {b : Byte} {v : BitVec 4} (h : InFrame cfg p NState.cksumHi s)
    (digit : hexval b = some v) :
    ∃ t, nmeaStep b s = .next t ∧ t.evt = .none ∧ InFrame cfg p NState.cksumLo t ∧
      t.nmea.exp = v ++ 0#4 := by
  rw [nmeaStep_of_cksumHi b h.state_eq, if_pos (isHex_of_some digit), exec_nHiDigit h.state_eq digit]
  exact ⟨_, rfl, rfl, ⟨h.cfg_eq, rfl, h.len_eq, h.ck_eq, h.payload_eq, h.fits⟩, rfl⟩

theorem InFrame.step_high_bad {b : Byte} (h : InFrame cfg p NState.cksumHi s) (bad : hexval b = none) :
    nmeaStep b s = .next (abortNmea s .none) := by
  rw [nmeaStep_of_cksumHi b h.state_eq, isHex_of_none bad]
  exact exec_nHiBad h.state_eq bad

theorem InFrame.step_low_bad {b : Byte} (h : InFrame cfg p NState.cksumLo s) (bad : hexval b = none) :
    nmeaStep b s = .next (abortNmea s .none) := by
  rw [nmeaStep_of_cksumLo b h.state_eq, isHex_of_none bad]
  exact exec_nLoBad h.state_eq bad

/-- The last digit: the frame when the two digits are the payload's checksum, else the checksum error. -/
theorem InFrame.step_low_digit {b : Byte} {v w : BitVec 4} (h : InFrame cfg p NState.cksumLo s)
    (high : s.nmea.exp = v ++ 0#4) (digit : hexval b = some w) :
    nmeaStep b s = .next (completed s w
      (if v ++ w = nck p then .nmeaFrame (BitVec.ofNat 16 p.length) (p.map some)
       else .nmeaChecksumError (BitVec.ofNat 16 p.length) (p.map some))) := by
  have digits : s.nmea.exp + w.setWidth 8 = v ++ w := by rw [high, high_nibble_add_digit]
  rw [nmeaStep_of_cksumLo b h.state_eq, if_pos (isHex_of_some digit), nDigitsMatch_of_some digit, digits, h.ck_eq]
  by_cases valid : v ++ w = nck p
  · have agree : s.nmea.exp + w.setWidth 8 = s.nmea.ck := by rw [digits, valid, h.ck_eq]
    rw [if_pos (beq_iff_eq.2 valid), if_pos valid, exec_nLoMatch h.state_eq digit agree h.room_for_sentinel,
      h.reported_payload, h.len_eq]
  · have differ : s.nmea.exp + w.setWidth 8 ≠ s.nmea.ck := by rwa [digits, h.ck_eq]
    rw [if_neg (mt beq_iff_eq.1 valid), if_neg valid,
      exec_nLoMismatch h.state_eq digit differ h.room_for_sentinel, h.reported_payload, h.len_eq]

/-! ### The stretches of a frame -/

/-- Payload bytes that fit extend the payload and report nothing. -/
theorem InFrame.feed_payload {q : List Byte} (h : InFrame cfg p NState.collect s) (no_star : star ∉ q)
    (room : p.length + q.length ≤ cfg.nmeaCap.val) :
    ∃ t, FeedsQuietly nmeaStep q s t ∧ InFrame cfg (p ++ q) NState.collect t := by
  induction q generalizing p s with
  | nil => exact ⟨s, feedsQuietly_nil, by simpa using h⟩
  | cons b q ih =>
    obtain ⟨not_star, no_star⟩ := List.ne_and_not_mem_of_not_mem_cons no_star
    rw [List.length_cons] at room
    obtain ⟨u, first, quiet, hu⟩ := h.step_payload (Ne.symm not_star) (by omega)
    obtain ⟨t, rest, ht⟩ := ih hu no_star (by rw [List.length_append, List.length_singleton]; omega)
    exact ⟨t, feedsQuietly_cons first quiet rest, by simpa using ht⟩

/-- `'$'` and a payload that fits. -/
theorem feed_dollar_payload (idle : s.nmea.state = NState.idle) (no_star : star ∉ p)
    (room : p.length ≤ s.cfg.nmeaCap.val) :
    ∃ t, FeedsQuietly nmeaStep (dollar :: p) s t ∧ InFrame s.cfg p NState.collect t := by
  obtain ⟨u, start, quiet, hu⟩ := nmeaStep_opens_frame idle
  obtain ⟨t, rest, ht⟩ := hu.feed_payload no_star (by simpa using room)
  exact ⟨t, feedsQuietly_cons start quiet rest, ht⟩

/-- `'$'`, a payload that fits, and `'*'`. -/
theorem feed_dollar_payload_star (idle : s.nmea.state = NState.idle) (no_star : star ∉ p)
    (room : p.length ≤ s.cfg.nmeaCap.val) :
    ∃ t, FeedsQuietly nmeaStep (dollar :: p ++ [star]) s t ∧ InFrame s.cfg p NState.cksumHi t := by
  obtain ⟨u, body, hu⟩ := feed_dollar_payload idle no_star room
  obtain ⟨t, stop, quiet, ht⟩ := hu.step_star
  exact ⟨t, body.append (feedsQuietly_single stop quiet), ht⟩

/-- All of a frame but its last digit. -/
theorem feed_to_last_digit {h1 : Byte} {v : BitVec 4} (idle : s.nmea.state = NState.idle) (no_star : star ∉ p)
    (room : p.length ≤ s.cfg.nmeaCap.val) (digit : hexval h1 = some v) :
    ∃ t, FeedsQuietly nmeaStep (dollar :: p ++ [star] ++ [h1]) s t ∧
      InFrame s.cfg p NState.cksumLo t ∧ t.nmea.exp = v ++ 0#4 := by
  obtain ⟨u, body, hu⟩ := feed_dollar_payload_star idle no_star room
  obtain ⟨t, first, quiet, ht, high⟩ := hu.step_high_digit digit
  exact ⟨t, body.append (feedsQuietly_single first quiet), ht, high⟩

/-! ### How a frame ends -/

/-- Two digits: the frame or the checksum error, on the last byte. -/
theorem nmeaFeed_two_digits {h1 h2 : Byte} {v1 v2 : BitVec 4} (idle : s.nmea.state = NState.idle)
    (no_star : star ∉ p) (room : p.length ≤ s.cfg.nmeaCap.val)
    (digit1 : hexval h1 = some v1) (digit2 : hexval h2 = some v2) :
    ∃ t, nmeaFeed (nmeaWire p h1 h2) s =
        some (List.replicate (p.length + 3) Event.none ++
          [if v1 ++ v2 = nck p then .nmeaFrame (BitVec.ofNat 16 p.length) (p.map some)
           else .nmeaChecksumError (BitVec.ofNat 16 p.length) (p.map some)], t) ∧
      t.nmea.state = NState.idle := by
  obtain ⟨u, body, hu, high⟩ := feed_to_last_digit idle no_star room digit1
  have fed := body.then_byte (hu.step_low_digit high digit2)
  exact ⟨_, by simpa [nmeaFeed, nmeaWire, Nat.add_assoc] using fed, rfl⟩

/-- One byte too many: the overflow on that byte. -/
theorem nmeaFeed_one_too_many (idle : s.nmea.state = NState.idle) (no_star : star ∉ p)
    (long : p.length = s.cfg.nmeaCap.val + 1) :
    ∃ t, nmeaFeed (dollar :: p) s =
        some (List.replicate p.length Event.none ++
          [.nmeaOverflow (BitVec.ofNat 16 s.cfg.nmeaCap.val)], t) ∧
      t.nmea.state = NState.idle := by
  obtain rfl | ⟨q, b, rfl⟩ := p.eq_nil_or_concat'
  · simp at long
  · simp only [List.length_append, List.length_singleton, Nat.add_right_cancel_iff] at long
    simp only [List.mem_append, List.mem_singleton, not_or] at no_star
    obtain ⟨no_star, not_star⟩ := no_star
    obtain ⟨u, body, hu⟩ := feed_dollar_payload idle no_star long.le
    have fed := body.then_byte (hu.step_overflow (Ne.symm not_star) long)
    exact ⟨_, by simpa [nmeaFeed, Nat.add_assoc] using fed, rfl⟩

/-- A bad first digit: nothing is reported. -/
theorem nmeaFeed_bad_high {h1 : Byte} (idle : s.nmea.state = NState.idle) (no_star : star ∉ p)
    (room : p.length ≤ s.cfg.nmeaCap.val) (bad : hexval h1 = none) :
    ∃ t, nmeaFeed (dollar :: p ++ [star, h1]) s =
        some (List.replicate (p.length + 3) Event.none, t) ∧ t.nmea.state = NState.idle := by
  obtain ⟨u, body, hu⟩ := feed_dollar_payload_star idle no_star room
  have fed := body.append (feedsQuietly_single (hu.step_high_bad bad) rfl)
  exact ⟨_, by simpa [FeedsQuietly, nmeaFeed, Nat.add_assoc] using fed, rfl⟩

/-- A bad second digit: nothing is reported. -/
theorem nmeaFeed_bad_low {h1 h2 : Byte} {v : BitVec 4} (idle : s.nmea.state = NState.idle) (no_star : star ∉ p)
    (room : p.length ≤ s.cfg.nmeaCap.val) (digit : hexval h1 = some v) (bad : hexval h2 = none) :
    ∃ t, nmeaFeed (nmeaWire p h1 h2) s =
        some (List.replicate (p.length + 4) Event.none, t) ∧ t.nmea.state = NState.idle := by
  obtain ⟨u, body, hu, _⟩ := feed_to_last_digit idle no_star room digit
  have fed := body.append (feedsQuietly_single (hu.step_low_bad bad) rfl)
  exact ⟨_, by simpa [FeedsQuietly, nmeaFeed, nmeaWire, Nat.add_assoc] using fed, rfl⟩

end

/-- Settles O55: the four ends of a frame. After an overflow the later bytes are fed from the state it leaves. -/
theorem nmeaFrameRecognised : Obligations.NmeaFrameRecognised := by
  intro s p idle no_star
  refine ⟨fun h1 h2 v1 v2 room => nmeaFeed_two_digits idle no_star room, fun q long => ?_,
    fun h1 room => nmeaFeed_bad_high idle no_star room, fun h1 h2 room digit bad => ?_⟩
  · obtain ⟨t, fed, idle_after⟩ := nmeaFeed_one_too_many idle no_star long
    exact ⟨t, fed, idle_after, by simpa [nmeaFeed] using feedBy_append (m := q) fed⟩
  · obtain ⟨v, digit⟩ := Option.isSome_iff_exists.1 digit
    exact nmeaFeed_bad_low idle no_star room digit bad

end Sys2Proof.Machine
end

section
/-! PROOF. What each row of the UBX framer does (42_ubx_framer.md R150 to R164): one equivalence per row that answers,
which gives the row's effect where it is selected and all that a row that answered can have done. -/

namespace Sys2Proof.Machine

/-- A row whose body is one next state answers exactly where it is selected, and then with that state. -/
theorem whenSelected_next_iff {i : Instr} {s t u : State} {P : Prop} (selected : selects i s = true ↔ P) :
    whenSelected i s (.next u) = .next t ↔ P ∧ t = u := by
  rw [whenSelected_eq_next, selected, Host.Outcome.next.injEq, eq_comm]

/-- A row that goes on from the result of an operation, a store or a forwarded byte, answers only if that does. -/
theorem body_of_whenSelected_onNext {i : Instr} {s t : State} {o : Result} {f : State → State}
    (h : whenSelected i s (onNext o f) = .next t) : ∃ u, o = .next u ∧ t = f u :=
  onNext_eq_next.1 (whenSelected_eq_next.1 h).2

/-! ### The rows -/

section
variable {s t : State} {b : Byte}

theorem exec_uIdleSync1_eq_next : exec .uIdleSync1 s = .next t ↔
    s.ubx.state = UState.idle ∧ t = (s.setUbx { s.ubx with state := UState.sync2 }).emit .none :=
  whenSelected_next_iff (selects_uIdleSync1 s)

theorem exec_uIdleIgnore_eq_next : exec (.uIdleIgnore b) s = .next t ↔
    (b ≠ sync1 ∧ s.ubx.state = UState.idle) ∧ t = s.emit .none :=
  whenSelected_next_iff (selects_uIdleIgnore s b)

theorem exec_uSync2Ok_eq_next : exec .uSync2Ok s = .next t ↔
    s.ubx.state = UState.sync2 ∧
      t = (s.setUbx { s.ubx with ckA := 0#8, ckB := 0#8, state := UState.cls }).emit .none :=
  whenSelected_next_iff (selects_uSync2Ok s)

theorem exec_uSync2Fail_eq_next : exec (.uSync2Fail b) s = .next t ↔
    (b ≠ sync2 ∧ s.ubx.state = UState.sync2) ∧ t = abortUbx s .none :=
  whenSelected_next_iff (selects_uSync2Fail s b)

theorem exec_uClass_eq_next : exec (.uClass b) s = .next t ↔
    s.ubx.state = UState.cls ∧
      t = (s.setUbx { s.ubx.absorb b with cls := b, state := UState.id }).emit .none :=
  whenSelected_next_iff (selects_uClass s b)

theorem exec_uId_eq_next : exec (.uId b) s = .next t ↔
    s.ubx.state = UState.id ∧
      t = (s.setUbx { s.ubx.absorb b with id := b, state := UState.lenLo }).emit .none :=
  whenSelected_next_iff (selects_uId s b)

theorem exec_uLenLo_eq_next : exec (.uLenLo b) s = .next t ↔
    s.ubx.state = UState.lenLo ∧
      t = (s.setUbx { s.ubx.absorb b with len := b.setWidth 16, state := UState.lenHi }).emit .none :=
  whenSelected_next_iff (selects_uLenLo s b)

theorem exec_uLenHiZero_eq_next : exec (.uLenHiZero b) s = .next t ↔
    (s.ubx.state = UState.lenHi ∧ lenWith s b = 0#16) ∧
      t = (s.setUbx { s.ubx.absorb b with len := lenWith s b, state := UState.cksumA }).emit .none :=
  whenSelected_next_iff (selects_uLenHiZero s b)

theorem exec_uLenHiOverflow_eq_next : exec (.uLenHiOverflow b) s = .next t ↔
    (s.ubx.state = UState.lenHi ∧ s.ubxCap < (lenWith s b).toNat) ∧
      t = abortUbx (s.setUbx { s.ubx.absorb b with len := lenWith s b })
        (.ubxError s.ubx.cls s.ubx.id (BitVec.ofNat 16 s.ubxCap) .bufferOverflow) :=
  whenSelected_next_iff (selects_uLenHiOverflow s b)

theorem exec_uLenHiPayload_eq_next : exec (.uLenHiPayload b) s = .next t ↔
    (s.ubx.state = UState.lenHi ∧ 0 < (lenWith s b).toNat ∧ (lenWith s b).toNat ≤ s.ubxCap) ∧
      t = (s.setUbx { s.ubx.absorb b with
        len := lenWith s b, cnt := lenWith s b, state := UState.payload }).emit .none :=
  whenSelected_next_iff (selects_uLenHiPayload s b)

/-- The state in which R160 and R161 leave the block, but for the countdown `n` and the framer state `c`. -/
def payloadStored (s : State) (b : Byte) (n : Half) (c : BitVec 4) : State :=
  (s.setUbx { (s.ubx.store (payloadIndex s) b).absorb b with cnt := n, state := c }).emit .none

/-- A payload row writes the one cell at `u_len - u_cnt`. -/
theorem readCell_payloadStored (n : Half) (c : BitVec 4) (a : Nat) :
    readCell (payloadStored s b n c).ubx.buf a =
      if a = payloadIndex s then some b else readCell s.ubx.buf a :=
  readCell_writeCell s.ubx.buf (payloadIndex s) a b

theorem mem_fresh_payloadStored (n : Half) (c : BitVec 4) (a : Nat) :
    a ∈ (payloadStored s b n c).ubx.fresh ↔ a = payloadIndex s ∨ a ∈ s.ubx.fresh :=
  mem_markFresh s.ubx.fresh (payloadIndex s) a

theorem exec_uPayloadByte_eq_next : exec (.uPayloadByte b) s = .next t ↔
    (s.ubx.state = UState.payload ∧ 2 ≤ s.ubx.cnt.toNat) ∧ payloadIndex s < s.ubxCap ∧
      t = payloadStored s b (s.ubx.cnt - 1#16) s.ubx.state := by
  refine whenSelected_eq_next.trans (and_congr (selects_uPayloadByte s b) ?_)
  simp only [onNext_eq_next, storeUbuf_eq_next, and_assoc, exists_and_left, exists_eq_left]
  rfl

theorem exec_uPayloadLast_eq_next : exec (.uPayloadLast b) s = .next t ↔
    (s.ubx.state = UState.payload ∧ s.ubx.cnt = 1#16) ∧ payloadIndex s < s.ubxCap ∧
      t = payloadStored s b 0#16 UState.cksumA := by
  refine whenSelected_eq_next.trans (and_congr (selects_uPayloadLast s b) ?_)
  simp only [onNext_eq_next, storeUbuf_eq_next, and_assoc, exists_and_left, exists_eq_left]
  rfl

theorem exec_uCksumA_eq_next : exec (.uCksumA b) s = .next t ↔
    s.ubx.state = UState.cksumA ∧
      t = (s.setUbx { s.ubx with expA := b, state := UState.cksumB }).emit .none :=
  whenSelected_next_iff (selects_uCksumA s b)

theorem exec_uCksumBMatch_eq_next : exec (.uCksumBMatch b) s = .next t ↔
    (s.ubx.state = UState.cksumB ∧ s.ubx.expA = s.ubx.ckA ∧ b = s.ubx.ckB) ∧
      t = (s.setUbx { s.ubx with state := UState.idle }).emit
        (.ubxFrame s.ubx.cls s.ubx.id s.ubx.len (slice s.ubx.buf s.ubx.len.toNat)) :=
  whenSelected_next_iff (selects_uCksumBMatch s b)

theorem exec_uCksumBMismatch_eq_next : exec (.uCksumBMismatch b) s = .next t ↔
    (s.ubx.state = UState.cksumB ∧ (s.ubx.expA ≠ s.ubx.ckA ∨ b ≠ s.ubx.ckB)) ∧
      t = abortUbx s (.ubxError s.ubx.cls s.ubx.id s.ubx.len .badChecksum) :=
  whenSelected_next_iff (selects_uCksumBMismatch s b)

end

/-! ### The row statements -/

/-- Settles O19, by the two rows' equivalences. -/
theorem uSyncBytesOpenFrame : Obligations.USyncBytesOpenFrame :=
  ⟨rfl, rfl, fun _ idle => exec_uIdleSync1_eq_next.2 ⟨idle, rfl⟩,
    fun _ second => exec_uSync2Ok_eq_next.2 ⟨second, rfl⟩⟩

/-- A byte with eight zero bits in front is the byte widened to 16 bits. -/
theorem zero_append_byte (b : Byte) : (0#8 ++ b : Half) = b.setWidth 16 := by
  simp [BitVec.setWidth_eq_append]

/-- Settles O20, by the three rows' equivalences. -/
theorem uHeaderBytesStored : Obligations.UHeaderBytesStored := by
  intro s b
  rw [zero_append_byte]
  exact ⟨rfl, rfl, rfl, fun cls => exec_uClass_eq_next.2 ⟨cls, rfl⟩, fun id => exec_uId_eq_next.2 ⟨id, rfl⟩,
    fun lenLo => exec_uLenLo_eq_next.2 ⟨lenLo, rfl⟩⟩

/-- Settles O24, by the row's equivalence and the law of one `UBUF` write. -/
theorem uPayloadByteStored : Obligations.UPayloadByteStored := by
  intro s b payload more room
  have bound (le : s.ubx.cnt.toNat ≤ s.ubx.len.toNat) :
      (s.ubx.len - s.ubx.cnt).toNat + 2 ≤ s.ubx.len.toNat := by
    rw [BitVec.toNat_sub_of_le le]
    omega
  exact ⟨rfl, bound, _, exec_uPayloadByte_eq_next.2 ⟨⟨payload, more⟩, room, rfl⟩, rfl,
    readCell_payloadStored _ _, mem_fresh_payloadStored _ _⟩

/-- Settles O25, as O24: with `u_cnt = 1` the index `u_len - u_cnt` is `u_len - 1`. -/
theorem uPayloadLastStored : Obligations.UPayloadLastStored := by
  intro s b payload last room
  have index : (s.ubx.len - 1#16).toNat = payloadIndex s := by rw [payloadIndex, last]
  rw [index] at room ⊢
  exact ⟨rfl, _, exec_uPayloadLast_eq_next.2 ⟨⟨payload, last⟩, room, rfl⟩, rfl,
    readCell_payloadStored _ _, mem_fresh_payloadStored _ _⟩

/-- Settles O26, by the row's equivalence. -/
theorem uCksumAStoresByte : Obligations.UCksumAStoresByte :=
  fun _ _ cksumA => ⟨rfl, exec_uCksumA_eq_next.2 ⟨cksumA, rfl⟩⟩

/-- Settles O28, by the row's equivalence. -/
theorem uCksumBMismatchReportsError : Obligations.UCksumBMismatchReportsError :=
  fun _ _ cksumB wrong => ⟨rfl, exec_uCksumBMismatch_eq_next.2 ⟨⟨cksumB, wrong⟩, rfl⟩⟩

end Sys2Proof.Machine
end

section
/-! PROOF. The reserved UBX states (42_ubx_framer.md R165): where their selectors lie, what a transition of any unit
can do to the UBX framer, and that no transition takes the framer into such a state. -/

namespace Sys2Proof.Machine

/-! ### Selectors under a mask -/

/-- A mask over the state code keeps the code's bits and drops the byte. -/
theorem code_append_byte_and_mask {c m p : BitVec 4} (code : c &&& m = p) (b : Byte) :
    (c ++ b) &&& (m ++ 0#8) = p ++ 0#8 := by
  rw [BitVec.and_append, code, BitVec.and_zero]

/-! ### What a transition can do to the UBX framer -/

section
variable {i : Instr} {s t : State} {b : Byte}

theorem nmeaStep_eq_exec (b : Byte) (s : State) : ∃ i : Instr, i.unit = .nmea ∧ nmeaStep b s = exec i s := by
  unfold nmeaStep
  split_ifs
  · exact ⟨.nIdleStart, rfl, rfl⟩
  · exact ⟨.nIdleIgnore b, rfl, rfl⟩
  · exact ⟨.nCollectEnd, rfl, rfl⟩
  · exact ⟨.nCollectAppend b, rfl, rfl⟩
  · exact ⟨.nCollectOverflow b, rfl, rfl⟩
  · exact ⟨.nHiDigit b, rfl, rfl⟩
  · exact ⟨.nHiBad b, rfl, rfl⟩
  · exact ⟨.nLoMatch b, rfl, rfl⟩
  · exact ⟨.nLoMismatch b, rfl, rfl⟩
  · exact ⟨.nLoBad b, rfl, rfl⟩

theorem ubxStep_eq_exec (b : Byte) (s : State) : ∃ i : Instr, i.unit = .ubx ∧ ubxStep b s = exec i s := by
  unfold ubxStep
  split
  · split_ifs
    · exact ⟨.uIdleSync1, rfl, rfl⟩
    · exact ⟨.uIdleIgnore b, rfl, rfl⟩
  · split_ifs
    · exact ⟨.uSync2Ok, rfl, rfl⟩
    · exact ⟨.uSync2Fail b, rfl, rfl⟩
  · exact ⟨.uClass b, rfl, rfl⟩
  · exact ⟨.uId b, rfl, rfl⟩
  · exact ⟨.uLenLo b, rfl, rfl⟩
  · split_ifs
    · exact ⟨.uLenHiZero b, rfl, rfl⟩
    · exact ⟨.uLenHiOverflow b, rfl, rfl⟩
    · exact ⟨.uLenHiPayload b, rfl, rfl⟩
  · split_ifs
    · exact ⟨.uPayloadByte b, rfl, rfl⟩
    · exact ⟨.uPayloadLast b, rfl, rfl⟩
    · exact ⟨.uPayloadZeroCount b, rfl, rfl⟩
  · exact ⟨.uCksumA b, rfl, rfl⟩
  · split_ifs
    · exact ⟨.uCksumBMatch b, rfl, rfl⟩
    · exact ⟨.uCksumBMismatch b, rfl, rfl⟩
  · exact ⟨.uReservedState9 b, rfl, rfl⟩
  · exact ⟨.uReservedState10To11 _ b, rfl, rfl⟩
  · exact ⟨.uReservedState10To11 _ b, rfl, rfl⟩
  · exact ⟨.uReservedState12To15 _ b, rfl, rfl⟩

/-- A row of the NMEA framer that answers changes that framer and the event only. -/
theorem exec_nmea_frame (unit : i.unit = .nmea) (h : exec i s = .next t) :
    t = { s with nmea := t.nmea, evt := t.evt } := by
  cases i with
  | nIdleStart | nIdleIgnore | nCollectEnd | nCollectOverflow | nHiBad | nLoBad =>
    obtain ⟨-, ⟨⟩⟩ := whenSelected_eq_next.1 h
    rfl
  | nCollectAppend =>
    obtain ⟨u, stored, rfl⟩ := body_of_whenSelected_onNext h
    obtain ⟨-, rfl⟩ := storeNbuf_eq_next.1 stored
    rfl
  | nHiDigit =>
    obtain ⟨-, body⟩ := whenSelected_eq_next.1 h
    obtain ⟨v, -, ⟨⟩⟩ := onDigit_eq_next.1 body
    rfl
  | nLoMatch | nLoMismatch =>
    obtain ⟨-, body⟩ := whenSelected_eq_next.1 h
    obtain ⟨v, -, -, rfl⟩ := finishNmea_eq_next.1 body
    rfl
  | _ => simp [Instr.unit] at unit

theorem ubx_of_exec_nmea (unit : i.unit = .nmea) (h : exec i s = .next t) : t.ubx = s.ubx := by
  rw [exec_nmea_frame unit h]

theorem ubx_of_nmeaStep (h : nmeaStep b s = .next t) : t.ubx = s.ubx := by
  obtain ⟨j, unit, same⟩ := nmeaStep_eq_exec b s
  exact ubx_of_exec_nmea unit (same.symm.trans h)

theorem row_of_ubxStep (h : ubxStep b s = .next t) : ∃ j : Instr, j.unit = .ubx ∧ exec j s = .next t := by
  obtain ⟨j, unit, same⟩ := ubxStep_eq_exec b s
  exact ⟨j, unit, same.symm.trans h⟩

@[simp] theorem followNmea_ubx (t : State) : (followNmea t).ubx = t.ubx := by
  unfold followNmea
  split <;> rfl

@[simp] theorem followUbx_ubx (t : State) : (followUbx t).ubx = t.ubx := by
  unfold followUbx
  split <;> rfl

/-- A transition of any unit that answers leaves the UBX framer alone or does to it what one row of that framer
does: its own row, or the row a forwarded byte runs (R191, R194). -/
theorem ubx_of_exec (h : exec i s = .next t) :
    t.ubx = s.ubx ∨ ∃ (j : Instr) (u : State), j.unit = .ubx ∧ exec j s = .next u ∧ t.ubx = u.ubx := by
  cases unit : i.unit with
  | nmea => exact .inl (ubx_of_exec_nmea unit h)
  | ubx => exact .inr ⟨i, t, unit, h, rfl⟩
  | dsp =>
    cases i with
    | dIdleNmea =>
      obtain ⟨u, step, rfl⟩ := body_of_whenSelected_onNext h
      exact .inl ((State.gotoD_ubx u _).trans (ubx_of_nmeaStep step))
    | dFwdNmea =>
      obtain ⟨u, step, rfl⟩ := body_of_whenSelected_onNext h
      exact .inl ((followNmea_ubx u).trans (ubx_of_nmeaStep step))
    | dIdleUbx =>
      obtain ⟨u, step, rfl⟩ := body_of_whenSelected_onNext h
      obtain ⟨j, unit, row⟩ := row_of_ubxStep step
      exact .inr ⟨j, u, unit, row, rfl⟩
    | dFwdUbx =>
      obtain ⟨u, step, rfl⟩ := body_of_whenSelected_onNext h
      obtain ⟨j, unit, row⟩ := row_of_ubxStep step
      exact .inr ⟨j, u, unit, row, followUbx_ubx u⟩
    | dIdleDiscard =>
      obtain ⟨-, ⟨⟩⟩ := whenSelected_eq_next.1 h
      exact .inl rfl
    | dReservedState =>
      obtain ⟨-, ⟨⟩⟩ := whenSelected_eq_next.1 h
    | _ => simp [Instr.unit] at unit

/-! ### No transition writes a reserved state -/

/-- The framer is in no reserved state: a code of R30, and in `PAYLOAD` a countdown that is not 0 (R165). -/
def UbxFramer.NotReserved (u : UbxFramer) : Prop :=
  u.state.toNat ≤ 8 ∧ (u.state = UState.payload → u.cnt ≠ 0#16)

/-- Outside `PAYLOAD` the state code alone decides. -/
theorem UbxFramer.notReserved_of_code {u : UbxFramer} {c : BitVec 4} (code : u.state = c)
    (legal : c.toNat ≤ 8 ∧ c ≠ UState.payload) : u.NotReserved := by
  obtain ⟨small, not_payload⟩ := legal
  subst code
  exact ⟨small, fun payload => absurd payload not_payload⟩

/-- A row of the UBX framer leaves it in no reserved state. Only R159 enters `PAYLOAD`, with a length that is not 0, and
only R160 stays there, counting down from 2 or more. -/
theorem exec_ubx_notReserved (unit : i.unit = .ubx) (h : exec i s = .next t) (ok : s.ubx.NotReserved) :
    t.ubx.NotReserved := by
  cases i with
  | uIdleSync1 | uSync2Ok | uSync2Fail | uClass | uId | uLenLo | uLenHiZero | uLenHiOverflow | uCksumA
  | uCksumBMatch | uCksumBMismatch =>
    obtain ⟨-, ⟨⟩⟩ := whenSelected_eq_next.1 h
    refine UbxFramer.notReserved_of_code rfl ?_
    simp only [State.emit_ubx, State.setUbx_ubx, abortUbx_ubx]
    decide
  | uIdleIgnore =>
    obtain ⟨-, rfl⟩ := exec_uIdleIgnore_eq_next.1 h
    exact ok
  | uLenHiPayload b =>
    obtain ⟨⟨-, positive, -⟩, rfl⟩ := exec_uLenHiPayload_eq_next.1 h
    refine ⟨by simp, fun _ => ?_⟩
    show lenWith s b ≠ 0#16
    bv_omega
  | uPayloadByte =>
    obtain ⟨⟨-, more⟩, -, rfl⟩ := exec_uPayloadByte_eq_next.1 h
    refine ⟨ok.1, fun _ => ?_⟩
    show s.ubx.cnt - 1#16 ≠ 0#16
    bv_omega
  | uPayloadLast =>
    obtain ⟨-, -, rfl⟩ := exec_uPayloadLast_eq_next.1 h
    exact UbxFramer.notReserved_of_code (c := UState.cksumA) rfl (by decide)
  | uPayloadZeroCount | uReservedState9 | uReservedState10To11 | uReservedState12To15 =>
    obtain ⟨-, ⟨⟩⟩ := whenSelected_eq_next.1 h
  | _ => simp [Instr.unit] at unit

theorem exec_keeps_notReserved (h : exec i s = .next t) (ok : s.ubx.NotReserved) : t.ubx.NotReserved := by
  obtain same | ⟨j, u, unit, row, same⟩ := ubx_of_exec h
  · rw [same]
    exact ok
  · rw [same]
    exact exec_ubx_notReserved unit row ok

end

/-- Settles O29: the four rows have no body but the fault; the selectors lie where the table's masks say, code by
code; and no transition of any unit takes the UBX framer into a reserved state. -/
theorem uReservedStatesFault : Obligations.UReservedStatesFault := by
  have code10 : ∀ x : BitVec 1, (5#3 ++ x : BitVec 4) &&& 0xE#4 = 0xA#4 := by decide
  have code12 : ∀ y : BitVec 2, (3#2 ++ y : BitVec 4) &&& 0xC#4 = 0xC#4 := by decide
  refine ⟨fun s b payload ended => ?_, fun s b code => ?_, fun s x b code => ?_, fun s x b code => ?_,
    fun x y b => ⟨?_, ?_, ?_, ?_⟩, fun _ _ _ => exec_keeps_notReserved, fun _ => rfl⟩
  · exact whenSelected_of_selects _ ((selects_uPayloadZeroCount s b).2 ⟨payload, ended⟩)
  · exact whenSelected_of_selects _ ((selects_uReservedState9 s b).2 code)
  · exact whenSelected_of_selects _ ((selects_uReservedState10To11 s b x).2 code)
  · exact whenSelected_of_selects _ ((selects_uReservedState12To15 s b x).2 code)
  · exact code_append_byte_and_mask (by decide : 9#4 &&& 0xF#4 = 9#4) b
  · exact code_append_byte_and_mask (code10 x) b
  · exact code_append_byte_and_mask (code12 y) b
  · exact code_append_byte_and_mask (by decide : 6#4 &&& 0xF#4 = 6#4) b

end Sys2Proof.Machine
end

section
/-! PROOF. What a row of each unit keeps (10_state.md §1), which dispatcher row a byte runs (43_dispatcher.md R196), and
that no row writes the reserved dispatcher code (R195). -/

namespace Sys2Proof.Machine

/-! ### The frame of a framer's row and of a forwarded byte -/

section
variable {i : Instr} {s t : State} {b : Byte}

/-- A row of the UBX framer that answers changes that framer and the event only. -/
theorem exec_ubx_frame (unit : i.unit = .ubx) (h : exec i s = .next t) :
    t = { s with ubx := t.ubx, evt := t.evt } := by
  cases i with
  | uPayloadByte | uPayloadLast =>
    obtain ⟨u, stored, rfl⟩ := body_of_whenSelected_onNext h
    obtain ⟨-, rfl⟩ := storeUbuf_eq_next.1 stored
    rfl
  | uIdleSync1 | uIdleIgnore | uSync2Ok | uSync2Fail | uClass | uId | uLenLo | uLenHiZero | uLenHiOverflow
  | uLenHiPayload | uCksumA | uCksumBMatch | uCksumBMismatch =>
    obtain ⟨-, ⟨⟩⟩ := whenSelected_eq_next.1 h
    rfl
  | uPayloadZeroCount | uReservedState9 | uReservedState10To11 | uReservedState12To15 =>
    obtain ⟨-, ⟨⟩⟩ := whenSelected_eq_next.1 h
  | _ => simp [Instr.unit] at unit

/-- A byte met by the NMEA framer changes that framer and the event only. -/
theorem nmeaStep_frame (h : nmeaStep b s = .next t) : t = { s with nmea := t.nmea, evt := t.evt } := by
  obtain ⟨j, unit, same⟩ := nmeaStep_eq_exec b s
  exact exec_nmea_frame unit (same.symm.trans h)

/-- A byte met by the UBX framer changes that framer and the event only. -/
theorem ubxStep_frame (h : ubxStep b s = .next t) : t = { s with ubx := t.ubx, evt := t.evt } := by
  obtain ⟨j, unit, row⟩ := row_of_ubxStep h
  exact exec_ubx_frame unit row

theorem dState_of_nmeaStep (h : nmeaStep b s = .next t) : t.dState = s.dState := by
  rw [nmeaStep_frame h]

theorem dState_of_ubxStep (h : ubxStep b s = .next t) : t.dState = s.dState := by
  rw [ubxStep_frame h]

theorem nmea_of_ubxStep (h : ubxStep b s = .next t) : t.nmea = s.nmea := by
  rw [ubxStep_frame h]

end

/-! ### What the dispatcher does after a forwarded byte -/

theorem followNmea_of_idle {t : State} (idle : t.nmea.state = NState.idle) :
    followNmea t = t.gotoD DState.idle := if_pos idle

theorem followNmea_of_not_idle {t : State} (busy : t.nmea.state ≠ NState.idle) : followNmea t = t := if_neg busy

theorem followUbx_of_idle {t : State} (idle : t.ubx.state = UState.idle) :
    followUbx t = t.gotoD DState.idle := if_pos idle

theorem followUbx_of_not_idle {t : State} (busy : t.ubx.state ≠ UState.idle) : followUbx t = t := if_neg busy

/-! ### `byte_step` in each dispatcher state -/

/-- The four codes of `d_state` (R23, R76). -/
theorem dState_code_cases (c : BitVec 2) :
    c = DState.idle ∨ c = DState.inNmea ∨ c = DState.inUbx ∨ c = DState.reserved := by
  revert c
  decide

section
variable {s : State}

theorem byteStep_of_decode {b : Byte} {i : Instr} (h : decode (dispatcherWord s b) = .ok i) :
    byteStep b s = exec i s := by
  rw [byteStep, h]

theorem byteStep_of_idle (b : Byte) (idle : s.dState = DState.idle) :
    byteStep b s = if b = dollar then exec .dIdleNmea s
      else if b = sync1 then exec .dIdleUbx s else exec (.dIdleDiscard b) s := by
  have distinct : sync1 ≠ dollar := by decide
  split_ifs <;> exact byteStep_of_decode (by simp [decode, dispatcherWord, statePlace, oneRow, *])

theorem byteStep_of_inNmea (b : Byte) (fwd : s.dState = DState.inNmea) :
    byteStep b s = exec (.dFwdNmea b) s :=
  byteStep_of_decode (by simp [decode, dispatcherWord, statePlace, oneRow, fwd])

theorem byteStep_of_inUbx (b : Byte) (fwd : s.dState = DState.inUbx) :
    byteStep b s = exec (.dFwdUbx b) s :=
  byteStep_of_decode (by simp [decode, dispatcherWord, statePlace, oneRow, fwd])

theorem byteStep_of_reserved (b : Byte) (reserved : s.dState = DState.reserved) :
    byteStep b s = exec (.dReservedState b) s :=
  byteStep_of_decode (by simp [decode, dispatcherWord, statePlace, oneRow, reserved])

/-- The block runs one dispatcher row on every byte, whatever the state (R196). -/
theorem byteStep_eq_exec (b : Byte) (s : State) : ∃ i : Instr, i.unit = .dsp ∧ byteStep b s = exec i s := by
  obtain idle | fwd | fwd | reserved := dState_code_cases s.dState
  · rw [byteStep_of_idle b idle]
    split_ifs
    · exact ⟨.dIdleNmea, rfl, rfl⟩
    · exact ⟨.dIdleUbx, rfl, rfl⟩
    · exact ⟨.dIdleDiscard b, rfl, rfl⟩
  · exact ⟨.dFwdNmea b, rfl, byteStep_of_inNmea b fwd⟩
  · exact ⟨.dFwdUbx b, rfl, byteStep_of_inUbx b fwd⟩
  · exact ⟨.dReservedState b, rfl, byteStep_of_reserved b reserved⟩

end

/-! ### No row writes the reserved dispatcher code -/

/-- A row that answers keeps `d_state` or writes the code of one of the dispatcher's three states: the framers' rows
keep it, the start rows route the byte (R190, R191), the forwarding rows keep it or return to `IDLE` (R193, R194). -/
theorem dState_of_exec {i : Instr} {s t : State} (h : exec i s = .next t) :
    t.dState = s.dState ∨ t.dState = DState.idle ∨ t.dState = DState.inNmea ∨ t.dState = DState.inUbx := by
  cases unit : i.unit with
  | nmea => exact .inl (by rw [exec_nmea_frame unit h])
  | ubx => exact .inl (by rw [exec_ubx_frame unit h])
  | dsp =>
    cases i with
    | dIdleNmea =>
      obtain ⟨u, -, rfl⟩ := body_of_whenSelected_onNext h
      exact .inr (.inr (.inl rfl))
    | dIdleUbx =>
      obtain ⟨u, -, rfl⟩ := body_of_whenSelected_onNext h
      exact .inr (.inr (.inr rfl))
    | dIdleDiscard =>
      obtain ⟨-, ⟨⟩⟩ := whenSelected_eq_next.1 h
      exact .inl rfl
    | dFwdNmea =>
      obtain ⟨u, step, rfl⟩ := body_of_whenSelected_onNext h
      by_cases idle : u.nmea.state = NState.idle
      · exact .inr (.inl (by rw [followNmea_of_idle idle, State.gotoD_dState]))
      · exact .inl (by rw [followNmea_of_not_idle idle, dState_of_nmeaStep step])
    | dFwdUbx =>
      obtain ⟨u, step, rfl⟩ := body_of_whenSelected_onNext h
      by_cases idle : u.ubx.state = UState.idle
      · exact .inr (.inl (by rw [followUbx_of_idle idle, State.gotoD_dState]))
      · exact .inl (by rw [followUbx_of_not_idle idle, dState_of_ubxStep step])
    | dReservedState =>
      obtain ⟨-, ⟨⟩⟩ := whenSelected_eq_next.1 h
    | _ => simp [Instr.unit] at unit

/-- Settles O33: the row has no body but the fault, its selector lies where the table's mask says, and a code that a
row or a reset writes is never 3. -/
theorem dReservedStateFaults : Obligations.DReservedStateFaults := by
  refine ⟨fun s b reserved => ?_, fun b => ?_, fun i s t h legal => ?_, fun _ => rfl⟩
  · exact whenSelected_of_selects _ ((selects_dReservedState s b).2 reserved)
  · exact code_append_byte_and_mask (by decide : 3#4 &&& 3#4 = 3#4) b
  · obtain same | code | code | code := dState_of_exec h
    · rwa [same]
    all_goals rw [code]; decide

end Sys2Proof.Machine
end

section
/-! PROOF. The coupling invariant (43_dispatcher.md R197): what establishes it, that every dispatcher row keeps it, and
so every step. -/

namespace Sys2Proof.Machine

/-! ### The coupling in each dispatcher state -/

section
variable {s t : State}

theorem coupled_of_idle (d : s.dState = DState.idle) (nmea : s.nmea.state = NState.idle)
    (ubx : s.ubx.state = UState.idle) : Coupled s :=
  ⟨fun _ => ⟨nmea, ubx⟩, fun e => absurd (d.symm.trans e) (by decide),
    fun e => absurd (d.symm.trans e) (by decide)⟩

theorem coupled_of_inNmea (d : s.dState = DState.inNmea) (nmea : s.nmea.state ≠ NState.idle)
    (ubx : s.ubx.state = UState.idle) : Coupled s :=
  ⟨fun e => absurd (d.symm.trans e) (by decide), fun _ => ⟨nmea, ubx⟩,
    fun e => absurd (d.symm.trans e) (by decide)⟩

theorem coupled_of_inUbx (d : s.dState = DState.inUbx) (nmea : s.nmea.state = NState.idle)
    (ubx : s.ubx.state ≠ UState.idle) : Coupled s :=
  ⟨fun e => absurd (d.symm.trans e) (by decide), fun e => absurd (d.symm.trans e) (by decide),
    fun _ => ⟨ubx, nmea⟩⟩

/-- The coupling speaks of the three state registers only. -/
theorem Coupled.congr (c : Coupled s) (d : t.dState = s.dState) (nmea : t.nmea.state = s.nmea.state)
    (ubx : t.ubx.state = s.ubx.state) : Coupled t := by
  rwa [Coupled, d, nmea, ubx]

/-- In a coupled state of legal code one framer at most is out of `IDLE`. -/
theorem Coupled.one_framer_idle (c : Coupled s) (legal : s.dState ≠ DState.reserved) :
    s.nmea.state = NState.idle ∨ s.ubx.state = UState.idle := by
  obtain ⟨idle, inNmea, inUbx⟩ := c
  obtain d | d | d | d := dState_code_cases s.dState
  · exact .inl (idle d).1
  · exact .inr (inNmea d).2
  · exact .inl (inUbx d).2
  · exact absurd d legal

/-! ### Every row and every step keeps the coupling -/

/-- A start byte takes an idle NMEA framer into a frame (R120). -/
theorem nmeaStep_dollar_leaves_idle (idle : s.nmea.state = NState.idle) (h : nmeaStep dollar s = .next t) :
    t.nmea.state ≠ NState.idle := by
  rw [nmeaStep_of_idle dollar idle, if_pos rfl, exec_nIdleStart idle] at h
  cases h
  simp

/-- A start byte takes an idle UBX framer into a frame (R150). -/
theorem ubxStep_sync1_leaves_idle (idle : s.ubx.state = UState.idle) (h : ubxStep sync1 s = .next t) :
    t.ubx.state ≠ UState.idle := by
  have row : ubxStep sync1 s = exec .uIdleSync1 s := by simp [ubxStep, idle, exec]
  obtain ⟨-, rfl⟩ := exec_uIdleSync1_eq_next.1 (row.symm.trans h)
  simp

/-- A dispatcher row keeps the coupling: a start row opens the frame of the framer it routes to, and a forwarding row
leaves the other framer alone and is `IDLE` when its own framer is. -/
theorem exec_dsp_keeps_coupled {i : Instr} (unit : i.unit = .dsp) (h : exec i s = .next t) (c : Coupled s) :
    Coupled t := by
  have ⟨c_idle, c_inNmea, c_inUbx⟩ := c
  cases i with
  | dIdleNmea =>
    obtain ⟨selected, body⟩ := whenSelected_eq_next.1 h
    obtain ⟨nmea, ubx⟩ := c_idle ((selects_dIdleNmea s).1 selected)
    obtain ⟨u, step, rfl⟩ := onNext_eq_next.1 body
    refine coupled_of_inNmea rfl (nmeaStep_dollar_leaves_idle (t := u) nmea step) ?_
    rwa [State.gotoD_ubx, ubx_of_nmeaStep step]
  | dIdleUbx =>
    obtain ⟨selected, body⟩ := whenSelected_eq_next.1 h
    obtain ⟨nmea, ubx⟩ := c_idle ((selects_dIdleUbx s).1 selected)
    obtain ⟨u, step, rfl⟩ := onNext_eq_next.1 body
    refine coupled_of_inUbx rfl ?_ (ubxStep_sync1_leaves_idle (t := u) ubx step)
    rwa [State.gotoD_nmea, nmea_of_ubxStep step]
  | dIdleDiscard =>
    obtain ⟨-, ⟨⟩⟩ := whenSelected_eq_next.1 h
    exact c
  | dFwdNmea b =>
    obtain ⟨selected, body⟩ := whenSelected_eq_next.1 h
    have inNmea := (selects_dFwdNmea s b).1 selected
    obtain ⟨u, step, rfl⟩ := onNext_eq_next.1 body
    have ubx : u.ubx.state = UState.idle := by
      rw [ubx_of_nmeaStep step]
      exact (c_inNmea inNmea).2
    by_cases idle : u.nmea.state = NState.idle
    · rw [followNmea_of_idle idle]
      exact coupled_of_idle rfl idle ubx
    · rw [followNmea_of_not_idle idle]
      exact coupled_of_inNmea ((dState_of_nmeaStep step).trans inNmea) idle ubx
  | dFwdUbx b =>
    obtain ⟨selected, body⟩ := whenSelected_eq_next.1 h
    have inUbx := (selects_dFwdUbx s b).1 selected
    obtain ⟨u, step, rfl⟩ := onNext_eq_next.1 body
    have nmea : u.nmea.state = NState.idle := by
      rw [nmea_of_ubxStep step]
      exact (c_inUbx inUbx).2
    by_cases idle : u.ubx.state = UState.idle
    · rw [followUbx_of_idle idle]
      exact coupled_of_idle rfl nmea idle
    · rw [followUbx_of_not_idle idle]
      exact coupled_of_inUbx ((dState_of_ubxStep step).trans inUbx) nmea idle
  | dReservedState =>
    obtain ⟨-, ⟨⟩⟩ := whenSelected_eq_next.1 h
  | _ => simp [Instr.unit] at unit

theorem byteStep_keeps_coupled {b : Byte} (h : byteStep b s = .next t) (c : Coupled s) : Coupled t := by
  obtain ⟨i, unit, same⟩ := byteStep_eq_exec b s
  exact exec_dsp_keeps_coupled unit (same.symm.trans h) c

/-- Only a byte and a reset write a state register. -/
theorem step_keeps_coupled (h : step s = .next t) (c : Coupled s) : Coupled t := by
  obtain ⟨-, rfl⟩ | ⟨_, rest, -, rfl⟩ | ⟨_, _, rest, -, rfl⟩ | ⟨b, rest, -, byte⟩ | ⟨_, rest, v, -, -, rfl⟩ |
    ⟨_, rest, v, -, -, rfl⟩ := step_eq_next h
  case inr.inr.inl => exact coupled_of_idle rfl rfl rfl
  case inr.inr.inr.inl => exact byteStep_keeps_coupled byte (c.congr rfl rfl rfl)
  all_goals exact c.congr rfl rfl rfl

end

/-! ### The ignore rows are never taken through the dispatcher -/

section
variable {s : State} {b : Byte}

theorem nIdleIgnore_not_selected (c : Coupled s) (forwarded : s.dState = DState.inNmea ∨ b = dollar) :
    selects (.nIdleIgnore b) s = false := by
  rw [← Bool.not_eq_true, selects_nIdleIgnore]
  rintro ⟨not_start, idle⟩
  obtain ⟨-, inNmea, -⟩ := c
  obtain fwd | start := forwarded
  · exact (inNmea fwd).1 idle
  · exact not_start start

theorem uIdleIgnore_not_selected (c : Coupled s) (forwarded : s.dState = DState.inUbx ∨ b = sync1) :
    selects (.uIdleIgnore b) s = false := by
  rw [← Bool.not_eq_true, selects_uIdleIgnore]
  rintro ⟨not_start, idle⟩
  obtain ⟨-, -, inUbx⟩ := c
  obtain fwd | start := forwarded
  · exact (inUbx fwd).1 idle
  · exact not_start start

end

/-- Settles O45, by the step lemma over the six kinds of step; the consequences follow from the coupling alone. -/
theorem couplingHolds : Obligations.CouplingHolds :=
  ⟨coupled_of_idle rfl rfl rfl, fun _ _ c h => step_keeps_coupled h c,
    fun _ _ c legal => ⟨nIdleIgnore_not_selected c, uIdleIgnore_not_selected c, c.one_framer_idle legal⟩⟩

end Sys2Proof.Machine
end

section
/-! PROOF. The silent drops (60_exceptions.md R213): the rows that drop a frame or a byte without an event, each by its
own equation. -/

namespace Sys2Proof.Machine

section
variable {s : State} {b : Byte}

theorem exec_nIdleIgnore (not_start : b ≠ dollar) (idle : s.nmea.state = NState.idle) :
    exec (.nIdleIgnore b) s = .next (s.emit .none) :=
  whenSelected_of_selects _ ((selects_nIdleIgnore s b).2 ⟨not_start, idle⟩)

theorem exec_dIdleDiscard (not_dollar : b ≠ dollar) (not_sync : b ≠ sync1) (idle : s.dState = DState.idle) :
    exec (.dIdleDiscard b) s = .next (s.emit .none) :=
  whenSelected_of_selects _ ((selects_dIdleDiscard s b).2 ⟨⟨not_dollar, not_sync⟩, idle⟩)

end

/-- Settles O18, by the equation of each of the six rows. -/
theorem silentDropsEmitNothing : Obligations.SilentDropsEmitNothing :=
  ⟨fun _ _ high bad => exec_nHiBad high bad, fun _ _ low bad => exec_nLoBad low bad,
    fun _ _ second failed => exec_uSync2Fail_eq_next.2 ⟨⟨failed, second⟩, rfl⟩,
    fun _ _ idle not_dollar not_sync => exec_dIdleDiscard not_dollar not_sync idle,
    fun _ _ idle not_start => exec_nIdleIgnore not_start idle,
    fun _ _ idle not_start => exec_uIdleIgnore_eq_next.2 ⟨⟨not_start, idle⟩, rfl⟩⟩

end Sys2Proof.Machine
end

section
/-! PROOF. The bounds that hold inside and outside a frame (10_state.md R26, 20_memory.md R51, R52, R62): both buffers
in canonical form with existing cells only, and `n_len <= NMEA_CAP`. Every row that answers keeps them, from any
state. -/

namespace Sys2Proof.Machine

/-- A write of an existing cell. -/
theorem BufferOk.writeCell {m : Memory} {size a : Nat} (ok : BufferOk m size) (exist : a < size) (v : Byte) :
    BufferOk (writeCell m a v) size := by
  obtain ⟨canonical, below⟩ := ok
  refine ⟨Memory.wf_writeCell canonical a v, fun c mem => ?_⟩
  obtain rfl | old := mem_writeCell mem
  · exact exist
  · exact below c old

/-- What `NmeaInv` and `UbxInv` say of a state whatever the framers' states are. -/
structure WithinBounds (s : State) : Prop where
  nbuf : BufferOk s.nmea.buf (s.nmeaCap + 1)
  nlen : s.nmea.len.toNat ≤ s.nmeaCap
  ubuf : BufferOk s.ubx.buf s.ubxCap

section
variable {i : Instr} {s t : State} {b : Byte}

theorem withinBounds_of_inv (inv : Inv s) : WithinBounds s := by
  obtain ⟨-, -, ⟨nbuf, nlen, -⟩, ⟨ubuf, -⟩⟩ := inv
  exact ⟨nbuf, nlen, ubuf⟩

/-- Only R120, R123 and the completing rows touch `n_len` or `NBUF`. -/
theorem exec_nmea_keeps_withinBounds (unit : i.unit = .nmea) (h : exec i s = .next t) (ok : WithinBounds s) :
    WithinBounds t := by
  cases i with
  | nIdleStart =>
    obtain ⟨-, ⟨⟩⟩ := whenSelected_eq_next.1 h
    exact ⟨ok.nbuf, Nat.zero_le _, ok.ubuf⟩
  | nIdleIgnore | nCollectEnd | nCollectOverflow | nHiBad | nLoBad =>
    obtain ⟨-, ⟨⟩⟩ := whenSelected_eq_next.1 h
    exact ⟨ok.nbuf, ok.nlen, ok.ubuf⟩
  | nCollectAppend b =>
    obtain ⟨selected, -⟩ := whenSelected_eq_next.1 h
    obtain ⟨payload, collect, room⟩ := (selects_nCollectAppend s b).1 selected
    rw [exec_nCollectAppend collect payload room] at h
    cases h
    refine ⟨ok.nbuf.writeCell (Nat.lt_succ_of_lt room) b, ?_, ok.ubuf⟩
    show (s.nmea.len + 1#16).toNat ≤ s.nmeaCap
    bv_omega
  | nHiDigit =>
    obtain ⟨-, body⟩ := whenSelected_eq_next.1 h
    obtain ⟨v, -, ⟨⟩⟩ := onDigit_eq_next.1 body
    exact ⟨ok.nbuf, ok.nlen, ok.ubuf⟩
  | nLoMatch | nLoMismatch =>
    obtain ⟨-, body⟩ := whenSelected_eq_next.1 h
    obtain ⟨v, -, room, rfl⟩ := finishNmea_eq_next.1 body
    exact ⟨ok.nbuf.writeCell (Nat.lt_succ_of_le room) sentinel, ok.nlen, ok.ubuf⟩
  | _ => simp [Instr.unit] at unit

/-- Only the payload rows touch `UBUF`, and their store checks the index. -/
theorem exec_ubx_keeps_withinBounds (unit : i.unit = .ubx) (h : exec i s = .next t) (ok : WithinBounds s) :
    WithinBounds t := by
  cases i with
  | uPayloadByte | uPayloadLast =>
    obtain ⟨u, stored, rfl⟩ := body_of_whenSelected_onNext h
    obtain ⟨exist, rfl⟩ := storeUbuf_eq_next.1 stored
    exact ⟨ok.nbuf, ok.nlen, ok.ubuf.writeCell exist _⟩
  | uIdleSync1 | uIdleIgnore | uSync2Ok | uSync2Fail | uClass | uId | uLenLo | uLenHiZero | uLenHiOverflow
  | uLenHiPayload | uCksumA | uCksumBMatch | uCksumBMismatch =>
    obtain ⟨-, ⟨⟩⟩ := whenSelected_eq_next.1 h
    exact ⟨ok.nbuf, ok.nlen, ok.ubuf⟩
  | uPayloadZeroCount | uReservedState9 | uReservedState10To11 | uReservedState12To15 =>
    obtain ⟨-, ⟨⟩⟩ := whenSelected_eq_next.1 h
  | _ => simp [Instr.unit] at unit

theorem nmeaStep_keeps_withinBounds (h : nmeaStep b s = .next t) (ok : WithinBounds s) : WithinBounds t := by
  obtain ⟨j, unit, same⟩ := nmeaStep_eq_exec b s
  exact exec_nmea_keeps_withinBounds unit (same.symm.trans h) ok

theorem ubxStep_keeps_withinBounds (h : ubxStep b s = .next t) (ok : WithinBounds s) : WithinBounds t := by
  obtain ⟨j, unit, row⟩ := row_of_ubxStep h
  exact exec_ubx_keeps_withinBounds unit row ok

/-- The bounds do not speak of `d_state`. -/
theorem WithinBounds.gotoD (ok : WithinBounds s) (c : BitVec 2) : WithinBounds (s.gotoD c) :=
  ⟨ok.nbuf, ok.nlen, ok.ubuf⟩

theorem WithinBounds.followNmea (ok : WithinBounds s) : WithinBounds (followNmea s) := by
  unfold Machine.followNmea
  split
  · exact ok.gotoD DState.idle
  · exact ok

theorem WithinBounds.followUbx (ok : WithinBounds s) : WithinBounds (followUbx s) := by
  unfold Machine.followUbx
  split
  · exact ok.gotoD DState.idle
  · exact ok

/-- A dispatcher row does to the buffers what the framer row it runs does. -/
theorem exec_dsp_keeps_withinBounds (unit : i.unit = .dsp) (h : exec i s = .next t) (ok : WithinBounds s) :
    WithinBounds t := by
  cases i with
  | dIdleNmea =>
    obtain ⟨u, step, rfl⟩ := body_of_whenSelected_onNext h
    exact (nmeaStep_keeps_withinBounds step ok).gotoD DState.inNmea
  | dIdleUbx =>
    obtain ⟨u, step, rfl⟩ := body_of_whenSelected_onNext h
    exact (ubxStep_keeps_withinBounds step ok).gotoD DState.inUbx
  | dIdleDiscard =>
    obtain ⟨-, ⟨⟩⟩ := whenSelected_eq_next.1 h
    exact ⟨ok.nbuf, ok.nlen, ok.ubuf⟩
  | dFwdNmea =>
    obtain ⟨u, step, rfl⟩ := body_of_whenSelected_onNext h
    exact (nmeaStep_keeps_withinBounds step ok).followNmea
  | dFwdUbx =>
    obtain ⟨u, step, rfl⟩ := body_of_whenSelected_onNext h
    exact (ubxStep_keeps_withinBounds step ok).followUbx
  | dReservedState =>
    obtain ⟨-, ⟨⟩⟩ := whenSelected_eq_next.1 h
  | _ => simp [Instr.unit] at unit

theorem byteStep_keeps_withinBounds (h : byteStep b s = .next t) (ok : WithinBounds s) : WithinBounds t := by
  obtain ⟨i, unit, same⟩ := byteStep_eq_exec b s
  exact exec_dsp_keeps_withinBounds unit (same.symm.trans h) ok

end

end Sys2Proof.Machine
end

section
/-! PROOF. After an error (60_exceptions.md R210): every error ends its frame and leaves the block idle; an idle block
within its bounds meets the invariant; and every byte after that is answered. -/

namespace Sys2Proof.Machine

/-! ### An error ends the frame -/

section
variable {i : Instr} {s t : State} {b : Byte}

/-- The NMEA rows that report an error are R124 and R128, and both return to `IDLE`. -/
theorem exec_nmea_error_idle (unit : i.unit = .nmea) (h : exec i s = .next t) (error : t.evt.isError = true) :
    t.nmea.state = NState.idle := by
  cases i with
  | nIdleStart | nIdleIgnore | nCollectEnd | nHiBad | nLoBad =>
    obtain ⟨-, ⟨⟩⟩ := whenSelected_eq_next.1 h
    cases error
  | nCollectAppend =>
    obtain ⟨u, -, rfl⟩ := body_of_whenSelected_onNext h
    cases error
  | nHiDigit =>
    obtain ⟨-, body⟩ := whenSelected_eq_next.1 h
    obtain ⟨v, -, ⟨⟩⟩ := onDigit_eq_next.1 body
    cases error
  | nCollectOverflow =>
    obtain ⟨-, ⟨⟩⟩ := whenSelected_eq_next.1 h
    rfl
  | nLoMatch | nLoMismatch =>
    obtain ⟨-, body⟩ := whenSelected_eq_next.1 h
    obtain ⟨v, -, -, rfl⟩ := finishNmea_eq_next.1 body
    rfl
  | _ => simp [Instr.unit] at unit

/-- The UBX rows that report an error are R158 and R164, and both return to `IDLE`. -/
theorem exec_ubx_error_idle (unit : i.unit = .ubx) (h : exec i s = .next t) (error : t.evt.isError = true) :
    t.ubx.state = UState.idle := by
  cases i with
  | uLenHiOverflow | uCksumBMismatch =>
    obtain ⟨-, ⟨⟩⟩ := whenSelected_eq_next.1 h
    rfl
  | uPayloadByte | uPayloadLast =>
    obtain ⟨u, -, rfl⟩ := body_of_whenSelected_onNext h
    cases error
  | uIdleSync1 | uIdleIgnore | uSync2Ok | uSync2Fail | uClass | uId | uLenLo | uLenHiZero | uLenHiPayload
  | uCksumA | uCksumBMatch =>
    obtain ⟨-, ⟨⟩⟩ := whenSelected_eq_next.1 h
    cases error
  | uPayloadZeroCount | uReservedState9 | uReservedState10To11 | uReservedState12To15 =>
    obtain ⟨-, ⟨⟩⟩ := whenSelected_eq_next.1 h
  | _ => simp [Instr.unit] at unit

theorem nmeaStep_error_idle (h : nmeaStep b s = .next t) (error : t.evt.isError = true) :
    t.nmea.state = NState.idle := by
  obtain ⟨j, unit, same⟩ := nmeaStep_eq_exec b s
  exact exec_nmea_error_idle unit (same.symm.trans h) error

theorem ubxStep_error_idle (h : ubxStep b s = .next t) (error : t.evt.isError = true) :
    t.ubx.state = UState.idle := by
  obtain ⟨j, unit, row⟩ := row_of_ubxStep h
  exact exec_ubx_error_idle unit row error

/-- A checksum character that is no digit drops the frame (R126, R129). -/
theorem nmeaStep_of_bad_digit (digits : s.nmea.state = NState.cksumHi ∨ s.nmea.state = NState.cksumLo)
    (bad : hexval b = none) : nmeaStep b s = .next (abortNmea s .none) := by
  obtain high | low := digits
  · rw [nmeaStep_of_cksumHi b high, isHex_of_none bad]
    exact exec_nHiBad high bad
  · rw [nmeaStep_of_cksumLo b low, isHex_of_none bad]
    exact exec_nLoBad low bad

/-- A second sync byte that fails drops the frame (R153). -/
theorem ubxStep_of_failed_sync (second : s.ubx.state = UState.sync2) (failed : b ≠ sync2) :
    ubxStep b s = .next (abortUbx s .none) := by
  have row : ubxStep b s = exec (.uSync2Fail b) s := by simp [ubxStep, second, failed, exec]
  exact row.trans (exec_uSync2Fail_eq_next.2 ⟨⟨failed, second⟩, rfl⟩)

@[simp] theorem followNmea_evt (t : State) : (followNmea t).evt = t.evt := by
  unfold followNmea
  split <;> rfl

@[simp] theorem followUbx_evt (t : State) : (followUbx t).evt = t.evt := by
  unfold followUbx
  split <;> rfl

/-- A dispatcher row that passes an error on is `IDLE` after it. A start row passes none on: it opens a frame, and an
error would have ended it. -/
theorem exec_dsp_error_idle (unit : i.unit = .dsp) (h : exec i s = .next t) (c : Coupled s)
    (error : t.evt.isError = true) : t.dState = DState.idle := by
  obtain ⟨c_idle, -, -⟩ := c
  cases i with
  | dIdleNmea =>
    obtain ⟨selected, body⟩ := whenSelected_eq_next.1 h
    obtain ⟨nmea, -⟩ := c_idle ((selects_dIdleNmea s).1 selected)
    obtain ⟨u, step, rfl⟩ := onNext_eq_next.1 body
    exact absurd (nmeaStep_error_idle step error) (nmeaStep_dollar_leaves_idle nmea step)
  | dIdleUbx =>
    obtain ⟨selected, body⟩ := whenSelected_eq_next.1 h
    obtain ⟨-, ubx⟩ := c_idle ((selects_dIdleUbx s).1 selected)
    obtain ⟨u, step, rfl⟩ := onNext_eq_next.1 body
    exact absurd (ubxStep_error_idle step error) (ubxStep_sync1_leaves_idle ubx step)
  | dIdleDiscard =>
    obtain ⟨-, ⟨⟩⟩ := whenSelected_eq_next.1 h
    cases error
  | dFwdNmea =>
    obtain ⟨u, step, rfl⟩ := body_of_whenSelected_onNext h
    rw [followNmea_evt] at error
    rw [followNmea_of_idle (nmeaStep_error_idle step error), State.gotoD_dState]
  | dFwdUbx =>
    obtain ⟨u, step, rfl⟩ := body_of_whenSelected_onNext h
    rw [followUbx_evt] at error
    rw [followUbx_of_idle (ubxStep_error_idle step error), State.gotoD_dState]
  | dReservedState =>
    obtain ⟨-, ⟨⟩⟩ := whenSelected_eq_next.1 h
  | _ => simp [Instr.unit] at unit

theorem byteStep_error_idle (h : byteStep b s = .next t) (c : Coupled s) (error : t.evt.isError = true) :
    t.dState = DState.idle := by
  obtain ⟨i, unit, same⟩ := byteStep_eq_exec b s
  exact exec_dsp_error_idle unit (same.symm.trans h) c error

/-- The dispatcher follows a framer that dropped its NMEA frame (R193). -/
theorem byteStep_bad_digit_idle (h : byteStep b s = .next t) (fwd : s.dState = DState.inNmea)
    (digits : s.nmea.state = NState.cksumHi ∨ s.nmea.state = NState.cksumLo) (bad : hexval b = none) :
    t.dState = DState.idle := by
  rw [byteStep_of_inNmea b fwd] at h
  obtain ⟨u, step, rfl⟩ := body_of_whenSelected_onNext h
  rw [nmeaStep_of_bad_digit digits bad] at step
  cases step
  rfl

/-- The dispatcher follows a framer that dropped its UBX frame (R194). -/
theorem byteStep_failed_sync_idle (h : byteStep b s = .next t) (fwd : s.dState = DState.inUbx)
    (second : s.ubx.state = UState.sync2) (failed : b ≠ sync2) : t.dState = DState.idle := by
  rw [byteStep_of_inUbx b fwd] at h
  obtain ⟨u, step, rfl⟩ := body_of_whenSelected_onNext h
  rw [ubxStep_of_failed_sync second failed] at step
  cases step
  rfl

/-- In a coupled state the dispatcher is `IDLE` only when both framers are. -/
theorem Coupled.allIdle (c : Coupled s) (idle : s.dState = DState.idle) : AllIdle s :=
  ⟨idle, c.1 idle⟩

end

/-! ### The invariant outside a frame and at its first byte -/

section
variable {s t : State}

theorem WithinBounds.nmeaInv_of_idle (ok : WithinBounds s) (idle : s.nmea.state = NState.idle) : NmeaInv s :=
  ⟨ok.nbuf, ok.nlen, fun busy => absurd idle busy, fun low => absurd (idle.symm.trans low) (by decide)⟩

/-- A frame just opened: no payload, and the checksum of none. -/
theorem WithinBounds.nmeaInv_of_opened (ok : WithinBounds s) (collect : s.nmea.state = NState.collect)
    (len : s.nmea.len = 0#16) (ck : s.nmea.ck = 0#8) : NmeaInv s := by
  refine ⟨ok.nbuf, ok.nlen, fun _ => ⟨[], ?_, List.not_mem_nil, ⟨rfl, ?_⟩, ck⟩,
    fun low => absurd (collect.symm.trans low) (by decide)⟩
  · rw [len]
    rfl
  · intro a none_stored
    exact absurd none_stored (Nat.not_lt_zero a)

/-- Before the header the UBX framer has taken nothing in. -/
theorem WithinBounds.ubxInv_of_no_header (ok : WithinBounds s) (before : s.ubx.state.toNat < 2) : UbxInv s := by
  refine ⟨ok.ubuf, fun payload => ?_, fun body => ?_, fun header => absurd header before.not_ge⟩
  · rw [payload] at before
    exact absurd before (by decide)
  · obtain state | state | state := body <;> (rw [state] at before; exact absurd before (by decide))

theorem inv_of_allIdle (idle : AllIdle s) (ok : WithinBounds s) : Inv s := by
  obtain ⟨d, nmea, ubx⟩ := idle
  have d_legal : s.dState ≠ DState.reserved := by rw [d]; decide
  have u_code : s.ubx.state.toNat = 0 := congrArg BitVec.toNat ubx
  exact ⟨⟨d_legal, by omega⟩, coupled_of_idle d nmea ubx,
    ok.nmeaInv_of_idle nmea, ok.ubxInv_of_no_header (by omega)⟩

/-! ### The next byte -/

/-- The state in which R190 and R120 leave an idle block. -/
def openedNmea (s : State) : State :=
  ((s.setNmea { s.nmea with ck := 0#8, len := 0#16, state := NState.collect }).emit .none).gotoD DState.inNmea

/-- The state in which R191 and R150 leave an idle block. -/
def openedUbx (s : State) : State :=
  ((s.setUbx { s.ubx with state := UState.sync2 }).emit .none).gotoD DState.inUbx

theorem byteStep_dollar_of_allIdle (idle : AllIdle s) : byteStep dollar s = .next (openedNmea s) := by
  obtain ⟨d, nmea, -⟩ := idle
  calc byteStep dollar s
      = exec .dIdleNmea s := by rw [byteStep_of_idle dollar d, if_pos rfl]
    _ = onNext (nmeaStep dollar s) _ := whenSelected_of_selects _ ((selects_dIdleNmea s).2 d)
    _ = .next (openedNmea s) := by rw [nmeaStep_of_idle dollar nmea, if_pos rfl, exec_nIdleStart nmea]; rfl

theorem byteStep_sync1_of_allIdle (idle : AllIdle s) : byteStep sync1 s = .next (openedUbx s) := by
  obtain ⟨d, -, ubx⟩ := idle
  have row : ubxStep sync1 s = exec .uIdleSync1 s := by simp [ubxStep, ubx, exec]
  calc byteStep sync1 s
      = exec .dIdleUbx s := by rw [byteStep_of_idle sync1 d, if_neg (by decide), if_pos rfl]
    _ = onNext (ubxStep sync1 s) _ := whenSelected_of_selects _ ((selects_dIdleUbx s).2 d)
    _ = .next (openedUbx s) := by rw [row, exec_uIdleSync1_eq_next.2 ⟨ubx, rfl⟩]; rfl

theorem byteStep_other_of_allIdle {b : Byte} (idle : AllIdle s) (not_dollar : b ≠ dollar) (not_sync : b ≠ sync1) :
    byteStep b s = .next (s.emit .none) := by
  obtain ⟨d, -, -⟩ := idle
  rw [byteStep_of_idle b d, if_neg not_dollar, if_neg not_sync, exec_dIdleDiscard not_dollar not_sync d]

theorem inv_openedNmea (idle : AllIdle s) (ok : WithinBounds (openedNmea s)) : Inv (openedNmea s) := by
  obtain ⟨-, -, ubx⟩ := idle
  have u_code : (openedNmea s).ubx.state.toNat = 0 := congrArg BitVec.toNat ubx
  exact ⟨⟨(by decide : DState.inNmea ≠ DState.reserved), by omega⟩,
    coupled_of_inNmea rfl (by decide : NState.collect ≠ NState.idle) ubx,
    ok.nmeaInv_of_opened rfl rfl rfl, ok.ubxInv_of_no_header (by omega)⟩

theorem inv_openedUbx (idle : AllIdle s) (ok : WithinBounds (openedUbx s)) : Inv (openedUbx s) := by
  obtain ⟨-, nmea, -⟩ := idle
  have u_code : (openedUbx s).ubx.state.toNat = 1 := rfl
  exact ⟨⟨(by decide : DState.inUbx ≠ DState.reserved), by omega⟩,
    coupled_of_inUbx rfl nmea (by decide : UState.sync2 ≠ UState.idle),
    ok.nmeaInv_of_idle nmea, ok.ubxInv_of_no_header (by omega)⟩

/-- From an idle block every byte is answered and the invariant holds after it: `'$'` and the first sync byte open a
frame (R190, R191), any other byte is discarded (R192). -/
theorem byteStep_of_allIdle_inv (idle : AllIdle s) (ok : WithinBounds s) (b : Byte) :
    ∃ u, byteStep b s = .next u ∧ Inv u := by
  have bounds {u : State} (answer : byteStep b s = .next u) : WithinBounds u := byteStep_keeps_withinBounds answer ok
  by_cases start : b = dollar
  · subst start
    have answer := byteStep_dollar_of_allIdle idle
    exact ⟨_, answer, inv_openedNmea idle (bounds answer)⟩
  · by_cases sync : b = sync1
    · subst sync
      have answer := byteStep_sync1_of_allIdle idle
      exact ⟨_, answer, inv_openedUbx idle (bounds answer)⟩
    · have answer := byteStep_other_of_allIdle idle start sync
      exact ⟨_, answer, inv_of_allIdle idle (bounds answer)⟩

end

/-- Settles O47: each kind of error leaves the dispatcher in `IDLE`, and so, by the coupling, all three units; outside
a frame the invariant is the coupling and the bounds, which every byte keeps; and an idle block answers every byte. -/
theorem errorsLeaveBlockIdle : Obligations.ErrorsLeaveBlockIdle := by
  intro s t b inv h error
  have ⟨_, coupled, _, _⟩ := inv
  have dispatcher_idle : t.dState = DState.idle := by
    obtain reported | ⟨fwd, digits, bad⟩ | ⟨fwd, second, failed⟩ := error
    · exact byteStep_error_idle h coupled reported
    · exact byteStep_bad_digit_idle h fwd digits bad
    · exact byteStep_failed_sync_idle h fwd second failed
  have idle : AllIdle t := (byteStep_keeps_coupled h coupled).allIdle dispatcher_idle
  have ok : WithinBounds t := byteStep_keeps_withinBounds h (withinBounds_of_inv inv)
  exact ⟨idle, inv_of_allIdle idle ok, byteStep_of_allIdle_inv idle ok⟩

end Sys2Proof.Machine
end

section
/-! PROOF. Reset (70_reset_and_hazards.md R240): what a reset cycle answers. -/

namespace Sys2Proof.Machine

/-- R240: a reset cycle takes its stimulus and resets what is left, whether or not a byte is presented. -/
theorem step_reset_cycle {s : State} {v : Bool} {b : Byte} {rest : List Stimulus}
    (h : s.inputs = .cycle true v b :: rest) : step s = .next (applyReset (s.setInputs rest)) :=
  (step_cycle h).trans (cycleStep_reset v b _)

/-- Settles O38: a reset cycle answers `applyReset` without its stimulus, whose registers are the reset values that
R240 lists. -/
theorem resetCycleClearsRegisters : Obligations.ResetCycleClearsRegisters := by
  intro s v b rest h
  calc step s
      = .next (applyReset (s.setInputs rest)) := step_reset_cycle h
    _ = .next { s with
          dState := DState.idle, nmea := NmeaFramer.atReset s.nmea.buf, ubx := UbxFramer.atReset s.ubx.buf,
          evt := .none, inputs := rest } := rfl

end Sys2Proof.Machine
end

section
/-! PROOF. The word of a transition and its decoder are inverse to each other (30_encoding.md §4): from a transition to
its word and back, and from a word to the transition it stands for. -/

namespace Sys2Proof

open Sys2Proof.Machine

/-! ### From a transition to its word and back -/

theorem bit_cases : ∀ x : BitVec 1, x = 0#1 ∨ x = 1#1 := by decide

theorem two_bit_cases : ∀ x : BitVec 2, x = 0#2 ∨ x = 1#2 ∨ x = 2#2 ∨ x = 3#2 := by decide

/-- The decoder on the word of a transition reads its three places. -/
theorem decode_encode {i : Instr} (wf : i.wf = true) : decode (encode i) = .ok i := by
  cases i with
  | nIdleStart | nCollectEnd | uIdleSync1 | uSync2Ok | dIdleNmea | dIdleUbx => decide
  | uReservedState10To11 x b =>
    obtain rfl | rfl := bit_cases x
    all_goals simp [decode, encode, statePlace, Instr.unit, Instr.stateCode, Instr.condPlace, Instr.byte, oneRow]
  | uReservedState12To15 x b =>
    obtain rfl | rfl | rfl | rfl := two_bit_cases x
    all_goals simp [decode, encode, statePlace, Instr.unit, Instr.stateCode, Instr.condPlace, Instr.byte, oneRow]
  | _ =>
    simp_all [Instr.wf, decode, encode, statePlace, Instr.unit, Instr.stateCode, Instr.condPlace, Instr.byte, oneRow,
      twoRows, threeRows]

/-- Settles O1: the decoder reads the three places of the transition's word. -/
theorem decodeOfEncode : Obligations.DecodeOfEncode := fun _ wf => decode_encode wf

/-- Two well-formed transitions of one word are the same transition. -/
theorem eq_of_encode_eq {i j : Instr} (wf_i : i.wf = true) (wf_j : j.wf = true) (same : encode i = encode j) :
    i = j := by
  have both : (Except.ok i : Except DecodeError Instr) = .ok j := by
    rw [← decode_encode wf_i, ← decode_encode wf_j, same]
  exact Except.ok.inj both

/-! ### From a word to its transition -/

/-- A word whose three places are those of a transition is its word. -/
theorem encode_eq_of_places {w : BitVec 16} {i : Instr} (cond : i.condPlace = wordCond w)
    (state : statePlace i.unit i.stateCode = wordState w) (byte : i.byte = wordByte w) : encode i = w := by
  rw [encode, cond, state, byte, transitionWord_places]

/-- The transition is well formed and stands at these places: condition place, state place and byte. -/
def Instr.StandsAt (i : Instr) (c : BitVec 2) (st : Nat) (b : Byte) : Prop :=
  i.wf = true ∧ i.condPlace = c ∧ (statePlace i.unit i.stateCode).toNat = st ∧ i.byte = b

section
variable {w : BitVec 16} {n : Nat} {i j k l : Instr}

theorem Instr.StandsAt.wf_and_encode (h : i.StandsAt (wordCond w) (wordState w).toNat (wordByte w)) :
    i.wf = true ∧ encode i = w := by
  obtain ⟨wf, cond, state, byte⟩ := h
  exact ⟨wf, encode_eq_of_places cond (BitVec.eq_of_toNat_eq state) byte⟩

/-- A row without a condition that the decoder answers. -/
theorem wf_and_encode_of_oneRow (state : (wordState w).toNat = n) (h : oneRow (wordCond w) i = .ok l)
    (first : i.StandsAt 0#2 n (wordByte w)) : l.wf = true ∧ encode l = w := by
  subst state
  unfold oneRow at h
  split_ifs at h with c
  · cases h
    exact Instr.StandsAt.wf_and_encode (c ▸ first)

/-- One of two rows that share a selector. -/
theorem wf_and_encode_of_twoRows (state : (wordState w).toNat = n) (h : twoRows (wordCond w) i j = .ok l)
    (first : i.StandsAt 0#2 n (wordByte w)) (second : j.StandsAt 1#2 n (wordByte w)) :
    l.wf = true ∧ encode l = w := by
  subst state
  unfold twoRows at h
  split_ifs at h with c c
  · cases h
    exact Instr.StandsAt.wf_and_encode (c ▸ first)
  · cases h
    exact Instr.StandsAt.wf_and_encode (c ▸ second)

/-- One of three rows that share a selector. -/
theorem wf_and_encode_of_threeRows (state : (wordState w).toNat = n) (h : threeRows (wordCond w) i j k = .ok l)
    (first : i.StandsAt 0#2 n (wordByte w)) (second : j.StandsAt 1#2 n (wordByte w))
    (third : k.StandsAt 2#2 n (wordByte w)) : l.wf = true ∧ encode l = w := by
  subst state
  unfold threeRows at h
  split_ifs at h with c c c
  · cases h
    exact Instr.StandsAt.wf_and_encode (c ▸ first)
  · cases h
    exact Instr.StandsAt.wf_and_encode (c ▸ second)
  · cases h
    exact Instr.StandsAt.wf_and_encode (c ▸ third)

end

theorem dIdleDiscard_wf {b : Byte} (h : b ≠ dollar) (h' : b ≠ sync1) : (Instr.dIdleDiscard b).wf = true := by
  simp [Instr.wf, h, h']

/-- A word that decodes is the word of the transition it decodes to, which is well formed: place by place, the rows of
that state and byte stand at the word's places. -/
theorem wf_and_encode_of_decode {w : BitVec 16} {i : Instr} (h : decode w = .ok i) : i.wf = true ∧ encode i = w := by
  unfold decode at h
  simp only at h
  split at h
  case h_1 st =>
    split_ifs at h with start sync
    · exact wf_and_encode_of_oneRow st h ⟨rfl, rfl, rfl, start.symm⟩
    · exact wf_and_encode_of_oneRow st h ⟨rfl, rfl, rfl, sync.symm⟩
    · exact wf_and_encode_of_oneRow st h ⟨dIdleDiscard_wf start sync, rfl, rfl, rfl⟩
  case h_6 st | h_7 st =>
    exact wf_and_encode_of_threeRows st h ⟨rfl, rfl, rfl, rfl⟩ ⟨rfl, rfl, rfl, rfl⟩ ⟨rfl, rfl, rfl, rfl⟩
  case h_9 st => exact wf_and_encode_of_twoRows st h ⟨rfl, rfl, rfl, rfl⟩ ⟨rfl, rfl, rfl, rfl⟩
  case h_17 st =>
    split_ifs at h with start
    · exact wf_and_encode_of_oneRow st h ⟨rfl, rfl, rfl, start.symm⟩
    · exact wf_and_encode_of_oneRow st h ⟨bne_iff_ne.2 start, rfl, rfl, rfl⟩
  case h_18 st =>
    split_ifs at h with stop
    · exact wf_and_encode_of_oneRow st h ⟨rfl, rfl, rfl, stop.symm⟩
    · have wf := bne_iff_ne.2 stop
      exact wf_and_encode_of_twoRows st h ⟨wf, rfl, rfl, rfl⟩ ⟨wf, rfl, rfl, rfl⟩
  case h_19 st =>
    split_ifs at h with digit
    · exact wf_and_encode_of_oneRow st h ⟨digit, rfl, rfl, rfl⟩
    · exact wf_and_encode_of_oneRow st h ⟨by simpa [Instr.wf] using digit, rfl, rfl, rfl⟩
  case h_20 st =>
    split_ifs at h with digit
    · exact wf_and_encode_of_twoRows st h ⟨digit, rfl, rfl, rfl⟩ ⟨digit, rfl, rfl, rfl⟩
    · exact wf_and_encode_of_oneRow st h ⟨by simpa [Instr.wf] using digit, rfl, rfl, rfl⟩
  case h_21 st | h_22 st =>
    split_ifs at h with sync
    · exact wf_and_encode_of_oneRow st h ⟨rfl, rfl, rfl, sync.symm⟩
    · exact wf_and_encode_of_oneRow st h ⟨bne_iff_ne.2 sync, rfl, rfl, rfl⟩
  case h_25 => cases h
  all_goals exact wf_and_encode_of_oneRow ‹_› h ⟨rfl, rfl, rfl, rfl⟩

/-- Settles O2: the word's places are those of the transition. -/
theorem encodeOfDecode : Obligations.EncodeOfDecode := fun _ _ h => wf_and_encode_of_decode h

/-- Settles O6, word by word. -/
theorem sampleWordsDecode : Obligations.SampleWordsDecode :=
  ⟨rfl, rfl, rfl, rfl, rfl, rfl, rfl, rfl, rfl, rfl, rfl, rfl⟩

end Sys2Proof
end

section
/-! PROOF. The selection of a row (30_encoding.md R79): a selected transition stands at the places its unit's registers
give, so each unit has one for every byte in every state, and `nmea_step`, `ubx_step` and `byte_step` run it. -/

namespace Sys2Proof.Machine

/-! ### Where a selected transition stands -/

section
variable {i j : Instr} {s t : State} {b : Byte}

/-- The unit's state register holds the code of a selected row. -/
theorem inRowState_of_selects (sel : selects i s = true) : inRowState i s = true := by
  simp only [selects, Bool.and_eq_true] at sel
  obtain ⟨⟨-, state⟩, -⟩ := sel
  exact state

theorem nmeaCode_of_selects (unit : i.unit = .nmea) (sel : selects i s = true) :
    s.nmea.state.setWidth 4 = i.stateCode := by
  have state := inRowState_of_selects sel
  simpa only [inRowState, unit, beq_iff_eq] using state

theorem ubxCode_of_selects (unit : i.unit = .ubx) (sel : selects i s = true) : s.ubx.state = i.stateCode := by
  have state := inRowState_of_selects sel
  simpa only [inRowState, unit, beq_iff_eq] using state

theorem dspCode_of_selects (unit : i.unit = .dsp) (sel : selects i s = true) :
    s.dState.setWidth 4 = i.stateCode := by
  have state := inRowState_of_selects sel
  simpa only [inRowState, unit, beq_iff_eq] using state

/-- The NMEA framer's registers give the condition place of the row they select. -/
theorem nmeaCond_of_selects (unit : i.unit = .nmea) (sel : selects i s = true) : nmeaCond s i.byte = i.condPlace := by
  have lo_ne_collect : NState.cksumLo ≠ NState.collect := by decide
  cases i with
  | nIdleStart => rw [nmeaCond, (selects_nIdleStart s).1 sel]; rfl
  | nIdleIgnore b => rw [nmeaCond, ((selects_nIdleIgnore s b).1 sel).2]; rfl
  | nCollectEnd => rw [nmeaCond, (selects_nCollectEnd s).1 sel]; rfl
  | nCollectAppend b =>
    obtain ⟨payload, collect, room⟩ := (selects_nCollectAppend s b).1 sel
    simp [nmeaCond, Instr.condPlace, Instr.byte, nHasRoom, payload, collect, room]
  | nCollectOverflow b =>
    obtain ⟨payload, collect, full⟩ := (selects_nCollectOverflow s b).1 sel
    simp [nmeaCond, Instr.condPlace, Instr.byte, nHasRoom, payload, collect, full]
  | nHiDigit b => rw [nmeaCond, ((selects_nHiDigit s b).1 sel).2]; rfl
  | nHiBad b => rw [nmeaCond, ((selects_nHiBad s b).1 sel).2]; rfl
  | nLoMatch b => simp [nmeaCond, Instr.condPlace, Instr.byte, lo_ne_collect, (selects_nLoMatch s b).1 sel]
  | nLoMismatch b => simp [nmeaCond, Instr.condPlace, Instr.byte, lo_ne_collect, (selects_nLoMismatch s b).1 sel]
  | nLoBad b => simp [nmeaCond, Instr.condPlace, Instr.byte, lo_ne_collect, (selects_nLoBad s b).1 sel]
  | _ => simp [Instr.unit] at unit

/-- The UBX framer's registers give the condition place of the row they select. -/
theorem ubxCond_of_selects (unit : i.unit = .ubx) (sel : selects i s = true) : ubxCond s i.byte = i.condPlace := by
  have payload_ne_lenHi : UState.payload ≠ UState.lenHi := by decide
  have cksumB_ne_lenHi : UState.cksumB ≠ UState.lenHi := by decide
  have cksumB_ne_payload : UState.cksumB ≠ UState.payload := by decide
  cases i with
  | uLenHiZero b => simp [ubxCond, Instr.condPlace, Instr.byte, (selects_uLenHiZero s b).1 sel]
  | uLenHiOverflow b =>
    obtain ⟨state, long⟩ := (selects_uLenHiOverflow s b).1 sel
    have positive : lenWith s b ≠ 0#16 := by bv_omega
    simp [ubxCond, Instr.condPlace, Instr.byte, state, long, positive]
  | uLenHiPayload b =>
    obtain ⟨state, more, fits⟩ := (selects_uLenHiPayload s b).1 sel
    have positive : lenWith s b ≠ 0#16 := by bv_omega
    simp [ubxCond, Instr.condPlace, Instr.byte, state, positive, fits.not_gt]
  | uPayloadByte b =>
    obtain ⟨state, more⟩ := (selects_uPayloadByte s b).1 sel
    simp [ubxCond, Instr.condPlace, state, payload_ne_lenHi, more]
  | uPayloadLast b =>
    obtain ⟨state, last⟩ := (selects_uPayloadLast s b).1 sel
    simp [ubxCond, Instr.condPlace, state, payload_ne_lenHi, last]
  | uPayloadZeroCount b =>
    obtain ⟨state, ended⟩ := (selects_uPayloadZeroCount s b).1 sel
    simp [ubxCond, Instr.condPlace, state, payload_ne_lenHi, ended]
  | uCksumBMatch b =>
    obtain ⟨state, agree⟩ := (selects_uCksumBMatch s b).1 sel
    simp [ubxCond, Instr.condPlace, Instr.byte, state, cksumB_ne_lenHi, cksumB_ne_payload, uSumsMatch, agree]
  | uCksumBMismatch b =>
    obtain ⟨state, wrong⟩ := (selects_uCksumBMismatch s b).1 sel
    have differ : uSumsMatch s b = false := by simpa [uSumsMatch, ← not_and_or] using wrong
    simp [ubxCond, Instr.condPlace, Instr.byte, state, cksumB_ne_lenHi, cksumB_ne_payload, differ]
  | uReservedState10To11 x b =>
    rw [ubxCond, (selects_uReservedState10To11 s b x).1 sel]
    obtain rfl | rfl := bit_cases x <;> rfl
  | uReservedState12To15 x b =>
    rw [ubxCond, (selects_uReservedState12To15 s b x).1 sel]
    obtain rfl | rfl | rfl | rfl := two_bit_cases x <;> rfl
  | uIdleSync1 | uIdleIgnore | uSync2Ok | uSync2Fail | uClass | uId | uLenLo | uCksumA | uReservedState9 =>
    rw [ubxCond, ubxCode_of_selects unit sel]
    rfl
  | _ => simp [Instr.unit] at unit

/-- The dispatcher has no row with a condition. -/
theorem condPlace_of_dsp (unit : i.unit = .dsp) : i.condPlace = 0#2 := by
  cases i with
  | dIdleNmea | dIdleUbx | dIdleDiscard | dFwdNmea | dFwdUbx | dReservedState => rfl
  | _ => simp [Instr.unit] at unit

/-- The transition word of a unit for a byte, from the unit's registers (R79). -/
def unitWord (u : FramingUnit) (s : State) (b : Byte) : BitVec 16 :=
  match u with
  | .nmea => nmeaWord s b
  | .ubx => ubxWord s b
  | .dsp => dispatcherWord s b

/-- The word that the registers of its unit give for its byte is a selected transition's own word. -/
theorem unitWord_of_selects (sel : selects i s = true) : unitWord i.unit s i.byte = encode i := by
  cases unit : i.unit with
  | nmea =>
    show nmeaWord s i.byte = encode i
    rw [nmeaWord, encode, nmeaCond_of_selects unit sel, nmeaCode_of_selects unit sel, unit]
  | ubx =>
    show ubxWord s i.byte = encode i
    rw [ubxWord, encode, ubxCond_of_selects unit sel, ubxCode_of_selects unit sel, unit]
  | dsp =>
    show dispatcherWord s i.byte = encode i
    rw [dispatcherWord, encode, condPlace_of_dsp unit, dspCode_of_selects unit sel, unit]

/-- A unit selects one transition for a byte at most: a second one would have the same word. -/
theorem eq_of_selects (unit : i.unit = j.unit) (byte : i.byte = j.byte) (sel_i : selects i s = true)
    (sel_j : selects j s = true) : i = j := by
  refine eq_of_encode_eq (wf_of_selects sel_i) (wf_of_selects sel_j) ?_
  rw [← unitWord_of_selects sel_i, ← unitWord_of_selects sel_j, unit, byte]

/-- The word of a selected transition's unit decodes to it. -/
theorem decode_unitWord_of_selects (sel : selects i s = true) : decode (unitWord i.unit s i.byte) = .ok i := by
  rw [unitWord_of_selects sel, decode_encode (wf_of_selects sel)]

/-! ### The transition that each unit runs -/

/-- The unit selects the transition for the byte. -/
def Selected (u : FramingUnit) (b : Byte) (s : State) (i : Instr) : Prop :=
  i.unit = u ∧ i.byte = b ∧ selects i s = true

theorem Selected.unique {u : FramingUnit} (h : Selected u b s i) (h' : Selected u b s j) : j = i := by
  obtain ⟨unit, byte, sel⟩ := h
  obtain ⟨unit', byte', sel'⟩ := h'
  exact eq_of_selects (unit'.trans unit.symm) (byte'.trans byte.symm) sel' sel

theorem nState_code_cases (c : BitVec 2) :
    c = NState.idle ∨ c = NState.collect ∨ c = NState.cksumHi ∨ c = NState.cksumLo := two_bit_cases c

/-- `nmea_step` runs the transition that the NMEA framer selects (R130). -/
theorem nmeaStep_runs (b : Byte) (s : State) : ∃ i, Selected .nmea b s i ∧ nmeaStep b s = exec i s := by
  obtain idle | collect | high | low := nState_code_cases s.nmea.state
  · rw [nmeaStep_of_idle b idle]
    split_ifs with start
    · exact ⟨.nIdleStart, ⟨rfl, start.symm, (selects_nIdleStart s).2 idle⟩, rfl⟩
    · exact ⟨.nIdleIgnore b, ⟨rfl, rfl, (selects_nIdleIgnore s b).2 ⟨start, idle⟩⟩, rfl⟩
  · rw [nmeaStep_of_collect b collect]
    split_ifs with stop room
    · exact ⟨.nCollectEnd, ⟨rfl, stop.symm, (selects_nCollectEnd s).2 collect⟩, rfl⟩
    · exact ⟨.nCollectAppend b, ⟨rfl, rfl, (selects_nCollectAppend s b).2 ⟨stop, collect, room⟩⟩, rfl⟩
    · exact ⟨.nCollectOverflow b, ⟨rfl, rfl, (selects_nCollectOverflow s b).2 ⟨stop, collect, not_lt.1 room⟩⟩, rfl⟩
  · rw [nmeaStep_of_cksumHi b high]
    split_ifs with digit
    · exact ⟨.nHiDigit b, ⟨rfl, rfl, (selects_nHiDigit s b).2 ⟨digit, high⟩⟩, rfl⟩
    · exact ⟨.nHiBad b, ⟨rfl, rfl, (selects_nHiBad s b).2 ⟨eq_false_of_ne_true digit, high⟩⟩, rfl⟩
  · rw [nmeaStep_of_cksumLo b low]
    split_ifs with digit valid
    · exact ⟨.nLoMatch b, ⟨rfl, rfl, (selects_nLoMatch s b).2 ⟨digit, low, valid⟩⟩, rfl⟩
    · exact ⟨.nLoMismatch b,
        ⟨rfl, rfl, (selects_nLoMismatch s b).2 ⟨digit, low, eq_false_of_ne_true valid⟩⟩, rfl⟩
    · exact ⟨.nLoBad b, ⟨rfl, rfl, (selects_nLoBad s b).2 ⟨eq_false_of_ne_true digit, low⟩⟩, rfl⟩

/-- Codes 10 and 11 are `101` and one bit. -/
theorem code_10_11 : ∀ c : BitVec 4, c.toNat = 10 ∨ c.toNat = 11 → c = 5#3 ++ c.extractLsb' 0 1 := by decide

/-- Codes 12 to 15 are `11` and two bits. -/
theorem code_12_15 : ∀ c : BitVec 4, 12 ≤ c.toNat → c = 3#2 ++ c.extractLsb' 0 2 := by decide

/-- `ubx_step` runs the transition that the UBX framer selects (R166). -/
theorem ubxStep_runs (b : Byte) (s : State) : ∃ i, Selected .ubx b s i ∧ ubxStep b s = exec i s := by
  have code {n : Nat} (e : s.ubx.state.toNat = n) (small : n < 2 ^ 4) : s.ubx.state = BitVec.ofNat 4 n :=
    BitVec.eq_of_toNat_eq (by rw [e, BitVec.toNat_ofNat, Nat.mod_eq_of_lt small])
  unfold ubxStep
  split
  case h_1 st =>
    have idle := code st (by decide)
    split_ifs with sync
    · exact ⟨.uIdleSync1, ⟨rfl, sync.symm, (selects_uIdleSync1 s).2 idle⟩, rfl⟩
    · exact ⟨.uIdleIgnore b, ⟨rfl, rfl, (selects_uIdleIgnore s b).2 ⟨sync, idle⟩⟩, rfl⟩
  case h_2 st =>
    have second := code st (by decide)
    split_ifs with sync
    · exact ⟨.uSync2Ok, ⟨rfl, sync.symm, (selects_uSync2Ok s).2 second⟩, rfl⟩
    · exact ⟨.uSync2Fail b, ⟨rfl, rfl, (selects_uSync2Fail s b).2 ⟨sync, second⟩⟩, rfl⟩
  case h_3 st => exact ⟨.uClass b, ⟨rfl, rfl, (selects_uClass s b).2 (code st (by decide))⟩, rfl⟩
  case h_4 st => exact ⟨.uId b, ⟨rfl, rfl, (selects_uId s b).2 (code st (by decide))⟩, rfl⟩
  case h_5 st => exact ⟨.uLenLo b, ⟨rfl, rfl, (selects_uLenLo s b).2 (code st (by decide))⟩, rfl⟩
  case h_6 st =>
    have lenHi := code st (by decide)
    split_ifs with zero long
    · exact ⟨.uLenHiZero b, ⟨rfl, rfl, (selects_uLenHiZero s b).2 ⟨lenHi, zero⟩⟩, rfl⟩
    · exact ⟨.uLenHiOverflow b, ⟨rfl, rfl, (selects_uLenHiOverflow s b).2 ⟨lenHi, long⟩⟩, rfl⟩
    · have positive : 0 < (lenWith s b).toNat := by bv_omega
      exact ⟨.uLenHiPayload b, ⟨rfl, rfl, (selects_uLenHiPayload s b).2 ⟨lenHi, positive, not_lt.1 long⟩⟩, rfl⟩
  case h_7 st =>
    have payload := code st (by decide)
    split_ifs with more last
    · exact ⟨.uPayloadByte b, ⟨rfl, rfl, (selects_uPayloadByte s b).2 ⟨payload, more⟩⟩, rfl⟩
    · exact ⟨.uPayloadLast b, ⟨rfl, rfl, (selects_uPayloadLast s b).2 ⟨payload, last⟩⟩, rfl⟩
    · have ended : s.ubx.cnt = 0#16 := by bv_omega
      exact ⟨.uPayloadZeroCount b, ⟨rfl, rfl, (selects_uPayloadZeroCount s b).2 ⟨payload, ended⟩⟩, rfl⟩
  case h_8 st => exact ⟨.uCksumA b, ⟨rfl, rfl, (selects_uCksumA s b).2 (code st (by decide))⟩, rfl⟩
  case h_9 st =>
    have cksumB := code st (by decide)
    split_ifs with valid
    · have agree : s.ubx.expA = s.ubx.ckA ∧ b = s.ubx.ckB := by simpa [uSumsMatch] using valid
      exact ⟨.uCksumBMatch b, ⟨rfl, rfl, (selects_uCksumBMatch s b).2 ⟨cksumB, agree⟩⟩, rfl⟩
    · have wrong : s.ubx.expA ≠ s.ubx.ckA ∨ b ≠ s.ubx.ckB := by simpa [uSumsMatch, ← not_and_or] using valid
      exact ⟨.uCksumBMismatch b, ⟨rfl, rfl, (selects_uCksumBMismatch s b).2 ⟨cksumB, wrong⟩⟩, rfl⟩
  case h_10 st =>
    exact ⟨.uReservedState9 b, ⟨rfl, rfl, (selects_uReservedState9 s b).2 (code st (by decide))⟩, rfl⟩
  case h_11 st =>
    exact ⟨.uReservedState10To11 _ b, ⟨rfl, rfl, (selects_uReservedState10To11 s b _).2 (code_10_11 _ (.inl st))⟩, rfl⟩
  case h_12 st =>
    exact ⟨.uReservedState10To11 _ b, ⟨rfl, rfl, (selects_uReservedState10To11 s b _).2 (code_10_11 _ (.inr st))⟩, rfl⟩
  case h_13 =>
    simp only [imp_false] at *
    have large : 12 ≤ s.ubx.state.toNat := by omega
    exact ⟨.uReservedState12To15 _ b, ⟨rfl, rfl, (selects_uReservedState12To15 s b _).2 (code_12_15 _ large)⟩, rfl⟩

/-- `byte_step` runs the transition that the dispatcher selects (R196). -/
theorem byteStep_runs (b : Byte) (s : State) : ∃ i, Selected .dsp b s i ∧ byteStep b s = exec i s := by
  obtain idle | fwd | fwd | reserved := dState_code_cases s.dState
  · rw [byteStep_of_idle b idle]
    split_ifs with start sync
    · exact ⟨.dIdleNmea, ⟨rfl, start.symm, (selects_dIdleNmea s).2 idle⟩, rfl⟩
    · exact ⟨.dIdleUbx, ⟨rfl, sync.symm, (selects_dIdleUbx s).2 idle⟩, rfl⟩
    · exact ⟨.dIdleDiscard b, ⟨rfl, rfl, (selects_dIdleDiscard s b).2 ⟨⟨start, sync⟩, idle⟩⟩, rfl⟩
  · exact ⟨.dFwdNmea b, ⟨rfl, rfl, (selects_dFwdNmea s b).2 fwd⟩, byteStep_of_inNmea b fwd⟩
  · exact ⟨.dFwdUbx b, ⟨rfl, rfl, (selects_dFwdUbx s b).2 fwd⟩, byteStep_of_inUbx b fwd⟩
  · exact ⟨.dReservedState b, ⟨rfl, rfl, (selects_dReservedState s b).2 reserved⟩, byteStep_of_reserved b reserved⟩

/-- Every unit selects a transition for every byte in every state. -/
theorem exists_selected (u : FramingUnit) (b : Byte) (s : State) : ∃ i, Selected u b s i := by
  cases u with
  | nmea => exact (nmeaStep_runs b s).imp fun _ run => run.1
  | ubx => exact (ubxStep_runs b s).imp fun _ run => run.1
  | dsp => exact (byteStep_runs b s).imp fun _ run => run.1

theorem Selected.decode_unitWord {u : FramingUnit} (h : Selected u b s i) : decode (unitWord u s b) = .ok i := by
  obtain ⟨rfl, rfl, sel⟩ := h
  exact decode_unitWord_of_selects sel

/-- A transition asked for where it is not selected: every meaning tests its row's selection first (log entry 4). -/
theorem exec_of_not_selects (h : selects i s = false) : exec i s = .refused .rowNotSelected := by
  cases i <;> exact whenSelected_of_not _ h

end

/-! ### The statements -/

/-- Settles O5: what a unit selects, and that it is one transition. -/
theorem exactlyOneTransitionSelected : Obligations.ExactlyOneTransitionSelected := by
  intro s u b
  obtain ⟨i, selected⟩ := exists_selected u b s
  exact ⟨i, selected, fun _ other => selected.unique other⟩

/-- Settles O9: the selected transition is what the word decodes to and what `nmea_step` runs. -/
theorem nmeaStepRunsDecodedTransition : Obligations.NmeaStepRunsDecodedTransition := by
  intro s b
  obtain ⟨i, selected, run⟩ := nmeaStep_runs b s
  have decoded := selected.decode_unitWord
  obtain ⟨unit, byte, sel⟩ := selected
  exact ⟨i, decoded, wf_of_selects sel, unit, byte, sel, run⟩

/-- Settles O10, as O9 for `ubx_step`. -/
theorem ubxStepRunsDecodedTransition : Obligations.UbxStepRunsDecodedTransition := by
  intro s b
  obtain ⟨i, selected, run⟩ := ubxStep_runs b s
  have decoded := selected.decode_unitWord
  obtain ⟨unit, byte, sel⟩ := selected
  exact ⟨i, decoded, wf_of_selects sel, unit, byte, sel, run⟩

/-- Settles O8: a step on a byte is `byte_step` on the state without its stimulus, and the dispatcher's word and
selection do not read the stimuli. -/
theorem stepRunsDecodedTransition : Obligations.StepRunsDecodedTransition := by
  intro s b rest h
  obtain ⟨i, selected, run⟩ := byteStep_runs b (s.setInputs rest)
  have decoded := selected.decode_unitWord
  obtain ⟨unit, byte, sel⟩ := selected
  refine ⟨i, decoded, wf_of_selects sel, unit, byte, ?_, (step_cycle h).trans run⟩
  exact (selects_congr (t := s.setInputs rest) rfl rfl rfl rfl).trans sel

/-- Settles O7: every meaning tests the selection of its row first. -/
theorem unselectedTransitionRefused : Obligations.UnselectedTransitionRefused :=
  fun _ _ h => exec_of_not_selects h

end Sys2Proof.Machine
end

section
/-! PROOF. The opcode table (30_encoding.md §4, §8): every well-formed transition lies in the row of its mnemonic, no two
rows of the table admit the same selector and condition place, and so each unit has exactly one row. -/

namespace Sys2Proof

open Sys2Proof.Machine

/-! ### A row's own test, part by part -/

/-- The byte lies in one of the inclusive ranges. -/
def InRanges (l : List (Nat × Nat)) (b : Byte) : Prop := ∃ p ∈ l, p.1 ≤ b.toNat ∧ b.toNat ≤ p.2

theorem setWidth_append_byte (c : BitVec 4) (b : Byte) : ((c ++ b : BitVec 12).setWidth 8) = b :=
  BitVec.setWidth_append_eq_right

theorem Row.admits_iff {r : Row} {u : FramingUnit} {code : BitVec 4} {b : Byte} {c : BitVec 2} :
    r.admits u (code ++ b) c = true ↔
      r.unit = u ∧ (code ++ b) &&& r.mask = r.pattern ∧ InRanges r.bytes b ∧ ∀ k, r.cond = some k → k = c := by
  cases h : r.cond <;> simp [Row.admits, h, setWidth_append_byte, InRanges, and_assoc]

/-- A mask without a bit of the byte sees the state code only. -/
theorem append_byte_and_of_mask {m : BitVec 12} (code_only : m &&& 0x0FF#12 = 0#12) (code : BitVec 4) (b : Byte) :
    (code ++ b) &&& m = (code ++ 0#8) &&& m := by
  apply BitVec.eq_of_getLsbD_eq
  intro i bound
  have bit := congrArg (·.getLsbD i) code_only
  by_cases low : i < 8
  · have masked : m.getLsbD i = false := by
      obtain rfl | rfl | rfl | rfl | rfl | rfl | rfl | rfl :
          i = 0 ∨ i = 1 ∨ i = 2 ∨ i = 3 ∨ i = 4 ∨ i = 5 ∨ i = 6 ∨ i = 7 := by omega
      all_goals simpa using bit
    simp [masked]
  · have code_bit (y : Byte) : (code ++ y : BitVec (4 + 8)).getLsbD i = code.getLsbD (i - 8) := by
      rw [BitVec.getLsbD_append, if_neg low]
    rw [BitVec.getLsbD_and, BitVec.getLsbD_and]
    exact congrArg (· && m.getLsbD i) ((code_bit b).trans (code_bit 0#8).symm)

/-- A row whose mask covers state code bits only admits what has its code bits, byte set and condition place. -/
theorem Row.admits_of_code {r : Row} {u : FramingUnit} (code : BitVec 4) {b : Byte} {c : BitVec 2}
    (unit : r.unit = u) (code_only : r.mask &&& 0x0FF#12 = 0#12) (state : (code ++ 0#8) &&& r.mask = r.pattern)
    (byte : InRanges r.bytes b) (cond : ∀ k, r.cond = some k → k = c) : r.admits u (code ++ b) c = true :=
  Row.admits_iff.2 ⟨unit, (append_byte_and_of_mask code_only code b).trans state, byte, cond⟩

/-! ### The byte sets -/

section
variable {b : Byte}

theorem inRanges_any : InRanges anyRange b := ⟨(0x00, 0xFF), by decide, by omega, by omega⟩

/-- Every byte but one that is not 0. -/
theorem inRanges_of_ne {v : Byte} (positive : 0 < v.toNat) (h : b ≠ v) :
    InRanges [(0, v.toNat - 1), (v.toNat + 1, 0xFF)] b := by
  simp only [InRanges, List.mem_cons, List.not_mem_nil, exists_eq_or_imp, or_false, exists_eq_left]
  bv_omega

theorem inRanges_not_start (h : b ≠ dollar) (h' : b ≠ sync1) :
    InRanges [(0x00, 0x23), (0x25, 0xB4), (0xB6, 0xFF)] b := by
  simp only [InRanges, List.mem_cons, List.not_mem_nil, exists_eq_or_imp, or_false, exists_eq_left]
  bv_omega

theorem inRanges_hex (h : isHex b = true) : InRanges hexRanges b := by
  rw [isHex, hexval_isSome_iff] at h
  simp only [InRanges, hexRanges, List.mem_cons, List.not_mem_nil, exists_eq_or_imp, or_false, exists_eq_left]
  bv_omega

theorem inRanges_nonHex (h : isHex b = false) : InRanges nonHexRanges b := by
  rw [← Bool.not_eq_true, isHex, hexval_isSome_iff] at h
  simp only [InRanges, nonHexRanges, List.mem_cons, List.not_mem_nil, exists_eq_or_imp, or_false, exists_eq_left]
  bv_omega

end

/-! ### The row of a transition -/

/-- A transition lies in a row of the table that bears its mnemonic and admits its selector and condition place. -/
def Instr.LiesIn (i : Instr) (r : Row) : Prop :=
  r.mnemonic = i.mnemonic ∧ r.admits i.unit i.selector i.condPlace = true

/-- By its number in the table, counted from 0. -/
theorem Instr.liesIn_table {i : Instr} (k : Nat) (bound : k < opcodeTable.length) (lies : i.LiesIn opcodeTable[k]) :
    ∃ r ∈ opcodeTable, i.LiesIn r :=
  ⟨opcodeTable[k], List.getElem_mem bound, lies⟩

theorem no_condition {c : BitVec 2} (k : BitVec 2) (h : (none : Option (BitVec 2)) = some k) : k = c := by cases h

theorem condition_eq {c : BitVec 2} (k : BitVec 2) (h : some c = some k) : k = c := (Option.some.inj h).symm

theorem exists_row_of_wf {i : Instr} (wf : i.wf = true) : ∃ r ∈ opcodeTable, i.LiesIn r := by
  cases i with
  | nIdleStart => exact Instr.liesIn_table 0 (by decide) ⟨rfl, by decide⟩
  | nIdleIgnore b =>
    have byte := inRanges_of_ne (by decide) (bne_iff_ne.1 wf)
    exact Instr.liesIn_table 1 (by decide) ⟨rfl, Row.admits_of_code 0#4 rfl rfl rfl byte no_condition⟩
  | nCollectEnd => exact Instr.liesIn_table 2 (by decide) ⟨rfl, by decide⟩
  | nCollectAppend b =>
    have byte := inRanges_of_ne (by decide) (bne_iff_ne.1 wf)
    exact Instr.liesIn_table 3 (by decide) ⟨rfl, Row.admits_of_code 1#4 rfl rfl rfl byte condition_eq⟩
  | nCollectOverflow b =>
    have byte := inRanges_of_ne (by decide) (bne_iff_ne.1 wf)
    exact Instr.liesIn_table 4 (by decide) ⟨rfl, Row.admits_of_code 1#4 rfl rfl rfl byte condition_eq⟩
  | nHiDigit b =>
    exact Instr.liesIn_table 5 (by decide) ⟨rfl, Row.admits_of_code 2#4 rfl rfl rfl (inRanges_hex wf) no_condition⟩
  | nHiBad b =>
    have byte := inRanges_nonHex (by simpa [Instr.wf] using wf)
    exact Instr.liesIn_table 6 (by decide) ⟨rfl, Row.admits_of_code 2#4 rfl rfl rfl byte no_condition⟩
  | nLoMatch b =>
    exact Instr.liesIn_table 7 (by decide) ⟨rfl, Row.admits_of_code 3#4 rfl rfl rfl (inRanges_hex wf) condition_eq⟩
  | nLoMismatch b =>
    exact Instr.liesIn_table 8 (by decide) ⟨rfl, Row.admits_of_code 3#4 rfl rfl rfl (inRanges_hex wf) condition_eq⟩
  | nLoBad b =>
    have byte := inRanges_nonHex (by simpa [Instr.wf] using wf)
    exact Instr.liesIn_table 9 (by decide) ⟨rfl, Row.admits_of_code 3#4 rfl rfl rfl byte no_condition⟩
  | uIdleSync1 => exact Instr.liesIn_table 10 (by decide) ⟨rfl, by decide⟩
  | uIdleIgnore b =>
    have byte := inRanges_of_ne (by decide) (bne_iff_ne.1 wf)
    exact Instr.liesIn_table 11 (by decide) ⟨rfl, Row.admits_of_code 0#4 rfl rfl rfl byte no_condition⟩
  | uSync2Ok => exact Instr.liesIn_table 12 (by decide) ⟨rfl, by decide⟩
  | uSync2Fail b =>
    have byte := inRanges_of_ne (by decide) (bne_iff_ne.1 wf)
    exact Instr.liesIn_table 13 (by decide) ⟨rfl, Row.admits_of_code 1#4 rfl rfl rfl byte no_condition⟩
  | uClass b =>
    exact Instr.liesIn_table 14 (by decide) ⟨rfl, Row.admits_of_code 2#4 rfl rfl rfl inRanges_any no_condition⟩
  | uId b =>
    exact Instr.liesIn_table 15 (by decide) ⟨rfl, Row.admits_of_code 3#4 rfl rfl rfl inRanges_any no_condition⟩
  | uLenLo b =>
    exact Instr.liesIn_table 16 (by decide) ⟨rfl, Row.admits_of_code 4#4 rfl rfl rfl inRanges_any no_condition⟩
  | uLenHiZero b =>
    exact Instr.liesIn_table 17 (by decide) ⟨rfl, Row.admits_of_code 5#4 rfl rfl rfl inRanges_any condition_eq⟩
  | uLenHiOverflow b =>
    exact Instr.liesIn_table 18 (by decide) ⟨rfl, Row.admits_of_code 5#4 rfl rfl rfl inRanges_any condition_eq⟩
  | uLenHiPayload b =>
    exact Instr.liesIn_table 19 (by decide) ⟨rfl, Row.admits_of_code 5#4 rfl rfl rfl inRanges_any condition_eq⟩
  | uPayloadByte b =>
    exact Instr.liesIn_table 20 (by decide) ⟨rfl, Row.admits_of_code 6#4 rfl rfl rfl inRanges_any condition_eq⟩
  | uPayloadLast b =>
    exact Instr.liesIn_table 21 (by decide) ⟨rfl, Row.admits_of_code 6#4 rfl rfl rfl inRanges_any condition_eq⟩
  | uCksumA b =>
    exact Instr.liesIn_table 22 (by decide) ⟨rfl, Row.admits_of_code 7#4 rfl rfl rfl inRanges_any no_condition⟩
  | uCksumBMatch b =>
    exact Instr.liesIn_table 23 (by decide) ⟨rfl, Row.admits_of_code 8#4 rfl rfl rfl inRanges_any condition_eq⟩
  | uCksumBMismatch b =>
    exact Instr.liesIn_table 24 (by decide) ⟨rfl, Row.admits_of_code 8#4 rfl rfl rfl inRanges_any condition_eq⟩
  | uPayloadZeroCount b =>
    exact Instr.liesIn_table 25 (by decide) ⟨rfl, Row.admits_of_code 6#4 rfl rfl rfl inRanges_any condition_eq⟩
  | uReservedState9 b =>
    exact Instr.liesIn_table 26 (by decide) ⟨rfl, Row.admits_of_code 9#4 rfl rfl rfl inRanges_any no_condition⟩
  | uReservedState10To11 x b =>
    have code : ((5#3 ++ x : BitVec 4) ++ 0#8) &&& 0xE00#12 = 0xA00#12 := by obtain rfl | rfl := bit_cases x <;> rfl
    exact Instr.liesIn_table 27 (by decide) ⟨rfl, Row.admits_of_code (5#3 ++ x) rfl rfl code inRanges_any no_condition⟩
  | uReservedState12To15 x b =>
    have code : ((3#2 ++ x : BitVec 4) ++ 0#8) &&& 0xC00#12 = 0xC00#12 := by
      obtain rfl | rfl | rfl | rfl := two_bit_cases x <;> rfl
    exact Instr.liesIn_table 28 (by decide) ⟨rfl, Row.admits_of_code (3#2 ++ x) rfl rfl code inRanges_any no_condition⟩
  | dIdleNmea => exact Instr.liesIn_table 29 (by decide) ⟨rfl, by decide⟩
  | dIdleUbx => exact Instr.liesIn_table 30 (by decide) ⟨rfl, by decide⟩
  | dIdleDiscard b =>
    obtain ⟨not_dollar, not_sync⟩ : b ≠ dollar ∧ b ≠ sync1 := by simpa [Instr.wf] using wf
    have byte := inRanges_not_start not_dollar not_sync
    exact Instr.liesIn_table 31 (by decide) ⟨rfl, Row.admits_of_code 0#4 rfl rfl rfl byte no_condition⟩
  | dFwdNmea b =>
    exact Instr.liesIn_table 32 (by decide) ⟨rfl, Row.admits_of_code 1#4 rfl rfl rfl inRanges_any no_condition⟩
  | dFwdUbx b =>
    exact Instr.liesIn_table 33 (by decide) ⟨rfl, Row.admits_of_code 2#4 rfl rfl rfl inRanges_any no_condition⟩
  | dReservedState b =>
    exact Instr.liesIn_table 34 (by decide) ⟨rfl, Row.admits_of_code 3#4 rfl rfl rfl inRanges_any no_condition⟩

/-- Settles O3: the row of each constructor, its mask, byte set and condition place. -/
theorem transitionLiesInItsTableRow : Obligations.TransitionLiesInItsTableRow :=
  fun _ wf => exists_row_of_wf wf

/-! ### Rows that exclude each other -/

/-- Two rows differ in their unit, in a bit that both masks cover, in all ranges of their byte sets, or in their
condition places. -/
def Row.apart (r q : Row) : Bool :=
  r.unit != q.unit || (r.pattern &&& q.mask) != (q.pattern &&& r.mask)
    || r.bytes.all (fun p => q.bytes.all fun o => decide (p.2 < o.1) || decide (o.2 < p.1))
    || (r.cond.isSome && q.cond.isSome && r.cond != q.cond)

/-- Rows that are apart never admit the same selector and condition place. -/
theorem Row.not_both_of_apart {r q : Row} (h : r.apart q = true) {u : FramingUnit} {code : BitVec 4} {b : Byte}
    {c : BitVec 2} : ¬(r.admits u (code ++ b) c = true ∧ q.admits u (code ++ b) c = true) := by
  rintro ⟨admits_r, admits_q⟩
  obtain ⟨unit, bits, ⟨p, p_mem, p_low, p_high⟩, cond⟩ := Row.admits_iff.1 admits_r
  obtain ⟨unit', bits', ⟨o, o_mem, o_low, o_high⟩, cond'⟩ := Row.admits_iff.1 admits_q
  simp only [Row.apart, Bool.or_eq_true, Bool.and_eq_true, bne_iff_ne, List.all_eq_true, decide_eq_true_eq,
    Option.isSome_iff_exists] at h
  obtain ((units | patterns) | ranges) | ⟨⟨⟨k, some_k⟩, ⟨l, some_l⟩⟩, conds⟩ := h
  · exact units (unit.trans unit'.symm)
  · refine patterns ?_
    rw [← bits, ← bits', BitVec.and_assoc, BitVec.and_assoc, BitVec.and_comm r.mask]
  · have outside := ranges p p_mem o o_mem
    omega
  · rw [some_k, some_l, cond k some_k, cond' l some_l] at conds
    exact conds rfl

/-- The rows of the table exclude each other pairwise. -/
theorem table_pairwise_apart : opcodeTable.Pairwise fun r q => r.apart q = true := by
  decide

/-- Of elements that exclude each other one at most passes a test. -/
theorem length_filter_eq_one {α : Type} {l : List α} {p : α → Bool} {a : α}
    (exclude : l.Pairwise fun x y => ¬(p x = true ∧ p y = true)) (mem : a ∈ l) (passes : p a = true) :
    (l.filter p).length = 1 := by
  have alone : (l.filter p).Pairwise fun _ _ => False := by
    refine (exclude.filter p).imp_of_mem fun {x y} hx hy not_both => ?_
    exact not_both ⟨(List.mem_filter.1 hx).2, (List.mem_filter.1 hy).2⟩
  have mem_filter : a ∈ l.filter p := List.mem_filter.2 ⟨mem, passes⟩
  cases h : l.filter p with
  | nil => rw [h] at mem_filter; cases mem_filter
  | cons x rest =>
    rw [h] at alone
    cases rest with
    | nil => rfl
    | cons y rest => exact ((List.pairwise_cons.1 alone).1 y List.mem_cons_self).elim

/-- One row of the table admits a transition's selector and condition place. -/
theorem one_row_admits {i : Instr} (wf : i.wf = true) :
    (opcodeTable.filter fun r => r.admits i.unit (i.stateCode ++ i.byte) i.condPlace).length = 1 := by
  obtain ⟨r, mem, -, admits⟩ := exists_row_of_wf wf
  exact length_filter_eq_one (table_pairwise_apart.imp fun apart => Row.not_both_of_apart apart) mem admits

/-- Settles O4: the row of the transition that the unit selects, and no other. -/
theorem exactlyOneTableRowApplies : Obligations.ExactlyOneTableRowApplies := by
  intro s b
  obtain ⟨i, nmea, rfl, sel_i⟩ := exists_selected .nmea b s
  obtain ⟨j, ubx, byte_j, sel_j⟩ := exists_selected .ubx i.byte s
  obtain ⟨k, dsp, byte_k, sel_k⟩ := exists_selected .dsp i.byte s
  refine ⟨?_, ?_, ?_⟩
  · rw [nmeaCode_of_selects nmea sel_i, nmeaCond_of_selects nmea sel_i, ← nmea]
    exact one_row_admits (wf_of_selects sel_i)
  · rw [ubxCode_of_selects ubx sel_j, ← byte_j, ubxCond_of_selects ubx sel_j, ← ubx]
    exact one_row_admits (wf_of_selects sel_j)
  · rw [dspCode_of_selects dsp sel_k, ← byte_k, ← condPlace_of_dsp dsp, ← dsp]
    exact one_row_admits (wf_of_selects sel_k)

end Sys2Proof
end

section
/-! PROOF. The row statements that their own equations settle (41_nmea_framer.md §2 and §4, 42_ubx_framer.md §2 and
§4), the consumer's reads (20_memory.md §3), idle cycles, and the output ports (30_encoding.md §5 and §6). -/

namespace Sys2Proof.Machine

/-! ### The framers' rows -/

/-- Settles O12: the row's equation; the two rows that take a payload byte have no `'*'` in their byte set. -/
theorem nCollectEndEndsPayload : Obligations.NCollectEndEndsPayload := by
  refine ⟨rfl, fun s collect => exec_nCollectEnd collect, fun s => ⟨?_, ?_⟩⟩
  · exact exec_of_not_selects (by simp [selects, Instr.wf])
  · exact exec_of_not_selects (by simp [selects, Instr.wf])

/-- Settles O14, by the row's equation. -/
theorem nCollectOverflowAborts : Obligations.NCollectOverflowAborts :=
  fun _ _ collect payload full => exec_nCollectOverflow collect payload full

/-- Settles O16, by the row's equation and the law of the sentinel's write. -/
theorem nLoMatchDeliversFrame : Obligations.NLoMatchDeliversFrame := by
  intro s b v low digit valid room
  refine ⟨_, exec_nLoMatch low digit valid room, rfl, fun a => ?_, fun a => ?_⟩
  · exact readCell_writeCell s.nmea.buf s.nmea.len.toNat a sentinel
  · exact mem_markFresh s.nmea.fresh s.nmea.len.toNat a

/-- Settles O21, by the row's equivalence. -/
theorem uLenHiZeroSkipsPayload : Obligations.ULenHiZeroSkipsPayload := by
  intro s b lenHi zero
  rw [exec_uLenHiZero_eq_next.2 ⟨⟨lenHi, zero⟩, rfl⟩, show lenWith s b = 0#16 from zero]
  rfl

/-- Settles O22, by the row's equivalence. -/
theorem uLenHiOverflowReportsCapacity : Obligations.ULenHiOverflowReportsCapacity :=
  fun _ _ lenHi long => exec_uLenHiOverflow_eq_next.2 ⟨⟨lenHi, long⟩, rfl⟩

/-- Settles O23, by the row's equivalence. -/
theorem uLenHiPayloadStartsCountdown : Obligations.ULenHiPayloadStartsCountdown :=
  fun _ _ lenHi positive fits => exec_uLenHiPayload_eq_next.2 ⟨⟨lenHi, positive, fits⟩, rfl⟩

/-- Settles O27, by the row's equivalence. -/
theorem uCksumBMatchDeliversFrame : Obligations.UCksumBMatchDeliversFrame :=
  fun _ _ cksumB first second => exec_uCksumBMatch_eq_next.2 ⟨⟨cksumB, first, second⟩, rfl⟩

/-! ### The dispatcher's rows -/

section
variable {s t : State} {b : Byte}

theorem exec_dIdleNmea (idle : s.dState = DState.idle) (step : nmeaStep dollar s = .next t) :
    exec .dIdleNmea s = .next (t.gotoD DState.inNmea) := by
  have row : exec .dIdleNmea s = onNext (nmeaStep dollar s) fun u => u.gotoD DState.inNmea :=
    whenSelected_of_selects _ ((selects_dIdleNmea s).2 idle)
  rw [row, step, onNext_next]

theorem exec_dIdleUbx (idle : s.dState = DState.idle) (step : ubxStep sync1 s = .next t) :
    exec .dIdleUbx s = .next (t.gotoD DState.inUbx) := by
  have row : exec .dIdleUbx s = onNext (ubxStep sync1 s) fun u => u.gotoD DState.inUbx :=
    whenSelected_of_selects _ ((selects_dIdleUbx s).2 idle)
  rw [row, step, onNext_next]

theorem exec_dFwdNmea (fwd : s.dState = DState.inNmea) (step : nmeaStep b s = .next t) :
    exec (.dFwdNmea b) s = .next (followNmea t) := by
  have row : exec (.dFwdNmea b) s = onNext (nmeaStep b s) followNmea :=
    whenSelected_of_selects _ ((selects_dFwdNmea s b).2 fwd)
  rw [row, step, onNext_next]

theorem exec_dFwdUbx (fwd : s.dState = DState.inUbx) (step : ubxStep b s = .next t) :
    exec (.dFwdUbx b) s = .next (followUbx t) := by
  have row : exec (.dFwdUbx b) s = onNext (ubxStep b s) followUbx :=
    whenSelected_of_selects _ ((selects_dFwdUbx s b).2 fwd)
  rw [row, step, onNext_next]

/-- The framer's own row for a byte, once it is known to be selected. -/
theorem nmeaStep_of_selected {i : Instr} (selected : Selected .nmea b s i) : nmeaStep b s = exec i s := by
  obtain ⟨j, other, run⟩ := nmeaStep_runs b s
  rw [run, selected.unique other]

theorem ubxStep_of_selected {i : Instr} (selected : Selected .ubx b s i) : ubxStep b s = exec i s := by
  obtain ⟨j, other, run⟩ := ubxStep_runs b s
  rw [run, selected.unique other]

/-- Settles O30: the dispatcher's row and the framer's row that the start byte runs. -/
theorem dIdleRoutesStartBytes : Obligations.DIdleRoutesStartBytes := by
  refine ⟨fun s idle nmea => ?_, fun s idle ubx => ?_⟩
  · have step := nmeaStep_of_selected ⟨rfl, rfl, (selects_nIdleStart s).2 nmea⟩
    exact exec_dIdleNmea idle (step.trans (exec_nIdleStart nmea))
  · have step := ubxStep_of_selected ⟨rfl, rfl, (selects_uIdleSync1 s).2 ubx⟩
    exact exec_dIdleUbx idle (step.trans (exec_uIdleSync1_eq_next.2 ⟨ubx, rfl⟩))

/-! ### A framer within its bounds answers every byte -/

/-- With R26's bound on `n_len` the store of a completing row has its cell, and R123 has one by its own condition. -/
theorem nmeaStep_answers (room : s.nmea.len.toNat ≤ s.nmeaCap) (b : Byte) : ∃ t, nmeaStep b s = .next t := by
  obtain ⟨i, ⟨unit, -, sel⟩, run⟩ := nmeaStep_runs b s
  rw [run]
  cases i with
  | nIdleStart | nIdleIgnore | nCollectEnd | nCollectOverflow | nHiBad | nLoBad =>
    exact ⟨_, whenSelected_of_selects _ sel⟩
  | nCollectAppend b =>
    obtain ⟨payload, collect, space⟩ := (selects_nCollectAppend s b).1 sel
    exact ⟨_, exec_nCollectAppend collect payload space⟩
  | nHiDigit b =>
    obtain ⟨digit, high⟩ := (selects_nHiDigit s b).1 sel
    obtain ⟨v, digit⟩ := Option.isSome_iff_exists.1 digit
    exact ⟨_, exec_nHiDigit high digit⟩
  | nLoMatch b =>
    obtain ⟨digit, -, -⟩ := (selects_nLoMatch s b).1 sel
    obtain ⟨v, digit⟩ := Option.isSome_iff_exists.1 digit
    exact ⟨_, (whenSelected_of_selects _ sel).trans (finishNmea_of_digit _ digit room)⟩
  | nLoMismatch b =>
    obtain ⟨digit, -, -⟩ := (selects_nLoMismatch s b).1 sel
    obtain ⟨v, digit⟩ := Option.isSome_iff_exists.1 digit
    exact ⟨_, (whenSelected_of_selects _ sel).trans (finishNmea_of_digit _ digit room)⟩
  | _ => simp [Instr.unit] at unit

/-- R34's bounds: the countdown has not ended and the declared length fits. -/
def CountdownOk (s : State) : Prop :=
  s.ubx.state = UState.payload →
    1 ≤ s.ubx.cnt.toNat ∧ s.ubx.cnt.toNat ≤ s.ubx.len.toNat ∧ s.ubx.len.toNat ≤ s.ubxCap

/-- In a legal state, with R34's bounds, no reserved row is selected and a payload row has its cell. -/
theorem ubxStep_answers (legal : s.ubx.state.toNat ≤ 8) (count : CountdownOk s) (b : Byte) :
    ∃ t, ubxStep b s = .next t := by
  obtain ⟨i, ⟨unit, -, sel⟩, run⟩ := ubxStep_runs b s
  have exist (payload : s.ubx.state = UState.payload) : payloadIndex s < s.ubxCap := by
    obtain ⟨positive, le, fits⟩ := count payload
    rw [payloadIndex, BitVec.toNat_sub_of_le le]
    omega
  rw [run]
  cases i with
  | uIdleSync1 | uIdleIgnore | uSync2Ok | uSync2Fail | uClass | uId | uLenLo | uLenHiZero | uLenHiOverflow
  | uLenHiPayload | uCksumA | uCksumBMatch | uCksumBMismatch => exact ⟨_, whenSelected_of_selects _ sel⟩
  | uPayloadByte b =>
    obtain ⟨payload, more⟩ := (selects_uPayloadByte s b).1 sel
    exact ⟨_, exec_uPayloadByte_eq_next.2 ⟨⟨payload, more⟩, exist payload, rfl⟩⟩
  | uPayloadLast b =>
    obtain ⟨payload, last⟩ := (selects_uPayloadLast s b).1 sel
    exact ⟨_, exec_uPayloadLast_eq_next.2 ⟨⟨payload, last⟩, exist payload, rfl⟩⟩
  | uPayloadZeroCount b =>
    obtain ⟨payload, ended⟩ := (selects_uPayloadZeroCount s b).1 sel
    obtain ⟨positive, -, -⟩ := count payload
    rw [ended] at positive
    exact absurd positive (by decide)
  | uReservedState9 b =>
    rw [(selects_uReservedState9 s b).1 sel] at legal
    exact absurd legal (by decide)
  | uReservedState10To11 x b =>
    rw [(selects_uReservedState10To11 s b x).1 sel, BitVec.toNat_append] at legal
    have large : 5 <<< 1 ≤ 5 <<< 1 ||| x.toNat := Nat.left_le_or
    exact absurd (large.trans legal) (by decide)
  | uReservedState12To15 x b =>
    rw [(selects_uReservedState12To15 s b x).1 sel, BitVec.toNat_append] at legal
    have large : 3 <<< 2 ≤ 3 <<< 2 ||| x.toNat := Nat.left_le_or
    exact absurd (large.trans legal) (by decide)
  | _ => simp [Instr.unit] at unit

theorem followNmea_eq (fwd : t.dState = DState.inNmea) :
    followNmea t = { t with dState := if t.nmea.state = NState.idle then DState.idle else DState.inNmea } := by
  unfold followNmea
  split
  · rfl
  · rw [← fwd]

theorem followUbx_eq (fwd : t.dState = DState.inUbx) :
    followUbx t = { t with dState := if t.ubx.state = UState.idle then DState.idle else DState.inUbx } := by
  unfold followUbx
  split
  · rfl
  · rw [← fwd]

end

/-- Settles O31: the framer answers within R26's bound, and the row follows it. -/
theorem dFwdNmeaFollowsFramer : Obligations.DFwdNmeaFollowsFramer := by
  intro s b fwd room
  obtain ⟨t, step⟩ := nmeaStep_answers room b
  refine ⟨t, step, ?_⟩
  rw [exec_dFwdNmea fwd step, followNmea_eq ((dState_of_nmeaStep step).trans fwd)]

/-- Settles O32: the framer answers in a legal state within R34's bounds, and the row follows it. -/
theorem dFwdUbxFollowsFramer : Obligations.DFwdUbxFollowsFramer := by
  intro s b fwd legal count
  obtain ⟨t, step⟩ := ubxStep_answers legal count b
  refine ⟨t, step, ?_⟩
  rw [exec_dFwdUbx fwd step, followUbx_eq ((dState_of_ubxStep step).trans fwd)]

/-! ### Consumer reads and cycles without a byte -/

section
variable {s : State} {a : Nat}

theorem readNbuf_of_unwritten (exist : a ≤ s.nmeaCap) (stale : a ∉ s.nmea.fresh) :
    readNbuf s a = .fault .unwrittenCell := by
  rw [readNbuf, if_pos exist, if_neg stale]

theorem readUbuf_of_unwritten (exist : a < s.ubxCap) (stale : a ∉ s.ubx.fresh) :
    readUbuf s a = .fault .unwrittenCell := by
  rw [readUbuf, if_pos exist, if_neg stale]

end

/-- Settles O40: a read steps on the state without its stimulus, and `readNbuf` and `readUbuf` test the range first and
then whether the cell was written. -/
theorem consumerReadReturnsCell : Obligations.ConsumerReadReturnsCell := by
  refine fun s a rest => ⟨fun h => ⟨fun v exist fresh cell => ?_, fun exist stale => ?_, fun out => ?_⟩,
    fun h => ⟨fun v exist fresh cell => ?_, fun exist stale => ?_, fun out => ?_⟩⟩
  · exact (step_readNbuf h).trans (readNbuf_eq_next.2 ⟨exist, fresh, v, cell, rfl⟩)
  · exact (step_readNbuf h).trans (readNbuf_of_unwritten exist stale)
  · exact (step_readNbuf h).trans (if_neg out.not_ge)
  · exact (step_readUbuf h).trans (readUbuf_eq_next.2 ⟨exist, fresh, v, cell, rfl⟩)
  · exact (step_readUbuf h).trans (readUbuf_of_unwritten exist stale)
  · exact (step_readUbuf h).trans (if_neg out.not_gt)

/-- Settles O41: both kinds of cycle are `holdCycle`. -/
theorem cycleWithoutByteHolds : Obligations.CycleWithoutByteHolds :=
  ⟨fun _ b _ h => (step_cycle h).trans (cycleStep_hold b _), fun _ h => step_nil h⟩

/-! ### The ports -/

theorem evtValid_eq_zero_iff (s : State) : s.ports.evtValid = 0#1 ↔ s.evt = .none := by
  show (if s.evt = .none then 0#1 else 1#1) = 0#1 ↔ _
  split <;> simp [*]

/-- Settles O42: the port functions on each kind of event. -/
theorem portsShowTheEvent : Obligations.PortsShowTheEvent := by
  intro s
  have fields {e : Event} (h : s.evt = e) : s.ports.evtKind = e.code ∧ s.ports.evtClass = e.classPort ∧
      s.ports.evtId = e.idPort ∧ s.ports.evtLen = e.len ∧ s.ports.evtEkind = e.ekindPort := by
    subst h
    exact ⟨rfl, rfl, rfl, rfl, rfl⟩
  obtain ⟨kind, cls, id, len, ekind⟩ := fields rfl
  refine ⟨rfl, evtValid_eq_zero_iff s, ?_, ?_, ?_, ?_, ?_, ?_, ?_, ?_, ?_, rfl, rfl, rfl⟩
  · rw [kind]
    cases s.evt <;> simp [Event.code]
  · rw [kind, cls, id]
    cases s.evt <;> simp [Event.code, Event.classPort, Event.idPort]
  · rw [kind, ekind]
    cases s.evt <;> simp [Event.code, Event.ekindPort]
  · intro h
    obtain ⟨kind, -, -, len, -⟩ := fields h
    exact ⟨kind, len⟩
  · intro n p h
    obtain ⟨kind, -, -, len, -⟩ := fields h
    exact ⟨kind, len⟩
  · intro n p h
    obtain ⟨kind, -, -, len, -⟩ := fields h
    exact ⟨kind, len⟩
  · intro n h
    obtain ⟨kind, -, -, len, -⟩ := fields h
    exact ⟨kind, len⟩
  · intro c i n p h
    obtain ⟨kind, cls, id, len, -⟩ := fields h
    exact ⟨kind, cls, id, len⟩
  · intro c i n k h
    obtain ⟨kind, cls, id, len, ekind⟩ := fields h
    refine ⟨kind, cls, id, len, ekind.trans ?_⟩
    cases k <;> rfl

end Sys2Proof.Machine
end

section
/-! PROOF. What a transition leaves alone (10_state.md §1, 43_dispatcher.md §2) and which cells it writes (20_memory.md §2
and §6): the frames of the three units, what a byte can do to the block, and one inversion of each buffer. -/

namespace Sys2Proof.Machine

section
variable {i : Instr} {s t : State} {b : Byte}

/-! ### What a dispatcher row can do -/

/-- A transition that answers is selected. -/
theorem selects_of_exec (h : exec i s = .next t) : selects i s = true := by
  by_contra not_selected
  rw [exec_of_not_selects (eq_false_of_ne_true not_selected)] at h
  cases h

/-- Following changes `d_state` only. -/
theorem followNmea_eq_gotoD (t : State) : followNmea t = t.gotoD (followNmea t).dState := by
  by_cases idle : t.nmea.state = NState.idle
  · rw [followNmea_of_idle idle, State.gotoD_dState]
  · rw [followNmea_of_not_idle idle]
    rfl

theorem followUbx_eq_gotoD (t : State) : followUbx t = t.gotoD (followUbx t).dState := by
  by_cases idle : t.ubx.state = UState.idle
  · rw [followUbx_of_idle idle, State.gotoD_dState]
  · rw [followUbx_of_not_idle idle]
    rfl

/-- The byte goes to the NMEA framer (R190, R193), and `t` is what the framer makes of it but for `d_state`. -/
def ForwardsNmea (b : Byte) (s t : State) : Prop :=
  (s.dState = DState.idle ∨ s.dState = DState.inNmea) ∧
    ∃ u, nmeaStep b s = .next u ∧ t = u.gotoD t.dState

/-- The byte goes to the UBX framer (R191, R194), and `t` is what the framer makes of it but for `d_state`. -/
def ForwardsUbx (b : Byte) (s t : State) : Prop :=
  (s.dState = DState.idle ∨ s.dState = DState.inUbx) ∧
    ∃ u, ubxStep b s = .next u ∧ t = u.gotoD t.dState

/-- A dispatcher row that answers drops its byte (R192) or forwards it to one framer. -/
theorem exec_dsp_cases (unit : i.unit = .dsp) (h : exec i s = .next t) :
    t = s.emit .none ∨ ForwardsNmea i.byte s t ∨ ForwardsUbx i.byte s t := by
  have sel := selects_of_exec h
  cases i with
  | dIdleNmea =>
    obtain ⟨u, step, rfl⟩ := body_of_whenSelected_onNext h
    exact .inr (.inl ⟨.inl ((selects_dIdleNmea s).1 sel), u, step, rfl⟩)
  | dIdleUbx =>
    obtain ⟨u, step, rfl⟩ := body_of_whenSelected_onNext h
    exact .inr (.inr ⟨.inl ((selects_dIdleUbx s).1 sel), u, step, rfl⟩)
  | dIdleDiscard b =>
    obtain ⟨-, ⟨⟩⟩ := whenSelected_eq_next.1 h
    exact .inl rfl
  | dFwdNmea b =>
    obtain ⟨u, step, rfl⟩ := body_of_whenSelected_onNext h
    exact .inr (.inl ⟨.inr ((selects_dFwdNmea s b).1 sel), u, step, followNmea_eq_gotoD u⟩)
  | dFwdUbx b =>
    obtain ⟨u, step, rfl⟩ := body_of_whenSelected_onNext h
    exact .inr (.inr ⟨.inr ((selects_dFwdUbx s b).1 sel), u, step, followUbx_eq_gotoD u⟩)
  | dReservedState b =>
    obtain ⟨-, ⟨⟩⟩ := whenSelected_eq_next.1 h
  | _ => simp [Instr.unit] at unit

/-- A byte that the block answers is dropped or forwarded to one framer. -/
theorem byteStep_cases (h : byteStep b s = .next t) :
    t = s.emit .none ∨ ForwardsNmea b s t ∨ ForwardsUbx b s t := by
  obtain ⟨i, ⟨unit, rfl, -⟩, run⟩ := byteStep_runs b s
  exact exec_dsp_cases unit (run.symm.trans h)

theorem ForwardsNmea.frame (h : ForwardsNmea b s t) :
    t = { s with dState := t.dState, nmea := t.nmea, evt := t.evt } := by
  obtain ⟨-, u, step, same⟩ := h
  rw [same, nmeaStep_frame step]
  rfl

theorem ForwardsUbx.frame (h : ForwardsUbx b s t) :
    t = { s with dState := t.dState, ubx := t.ubx, evt := t.evt } := by
  obtain ⟨-, u, step, same⟩ := h
  rw [same, ubxStep_frame step]
  rfl

/-- A dispatcher row changes `d_state`, the event and one framer at most. -/
theorem exec_dsp_frame (unit : i.unit = .dsp) (h : exec i s = .next t) :
    t = { s with dState := t.dState, nmea := t.nmea, evt := t.evt } ∨
    t = { s with dState := t.dState, ubx := t.ubx, evt := t.evt } := by
  obtain rfl | nmea | ubx := exec_dsp_cases unit h
  · exact .inl rfl
  · exact .inl nmea.frame
  · exact .inr ubx.frame

/-- Settles O34: the frame of each NMEA row. -/
theorem nmeaRowsTouchOnlyNmea : Obligations.NmeaRowsTouchOnlyNmea := fun _ _ _ unit h => exec_nmea_frame unit h

/-- Settles O35: the frame of each UBX row. -/
theorem ubxRowsTouchOnlyUbx : Obligations.UbxRowsTouchOnlyUbx := fun _ _ _ unit h => exec_ubx_frame unit h

/-- Settles O36: a dispatcher row drops its byte or forwards it to one framer, whose rows have their own frame. -/
theorem dispatcherRowsTouchOneFramer : Obligations.DispatcherRowsTouchOneFramer :=
  fun _ _ _ unit h => exec_dsp_frame unit h

/-! ### What a transition does to the NMEA framer -/

theorem row_of_nmeaStep (h : nmeaStep b s = .next t) : ∃ j, Selected .nmea b s j ∧ exec j s = .next t := by
  obtain ⟨j, selected, run⟩ := nmeaStep_runs b s
  exact ⟨j, selected, run.symm.trans h⟩

theorem selected_row_of_ubxStep (h : ubxStep b s = .next t) : ∃ j, Selected .ubx b s j ∧ exec j s = .next t := by
  obtain ⟨j, selected, run⟩ := ubxStep_runs b s
  exact ⟨j, selected, run.symm.trans h⟩

/-- The framer's buffer and its list of written cells are untouched, or one existing cell is written: at `n_len`, with
the payload byte (R123) or the sentinel (R127, R128). -/
def NmeaWrites (b : Byte) (s t : State) : Prop :=
  (t.nmea.buf = s.nmea.buf ∧ t.nmea.fresh = s.nmea.fresh) ∨
    ∃ v, (s.nmea.state = NState.collect ∧ v = b ∨ s.nmea.state = NState.cksumLo ∧ v = sentinel) ∧
      s.nmea.len.toNat ≤ s.nmeaCap ∧ t.nmea.buf = writeCell s.nmea.buf s.nmea.len.toNat v ∧
      t.nmea.fresh = markFresh s.nmea.fresh s.nmea.len.toNat

/-- As `NmeaWrites`: one existing cell of `UBUF` at most, at `u_len - u_cnt` with the payload byte (R160, R161). -/
def UbxWrites (b : Byte) (s t : State) : Prop :=
  (t.ubx.buf = s.ubx.buf ∧ t.ubx.fresh = s.ubx.fresh) ∨
    s.ubx.state = UState.payload ∧ payloadIndex s < s.ubxCap ∧
      t.ubx.buf = writeCell s.ubx.buf (payloadIndex s) b ∧ t.ubx.fresh = markFresh s.ubx.fresh (payloadIndex s)

theorem exec_nmea_writes (unit : i.unit = .nmea) (h : exec i s = .next t) : NmeaWrites i.byte s t := by
  cases i with
  | nIdleStart | nIdleIgnore | nCollectEnd | nCollectOverflow | nHiBad | nLoBad =>
    obtain ⟨-, ⟨⟩⟩ := whenSelected_eq_next.1 h
    exact .inl ⟨rfl, rfl⟩
  | nCollectAppend b =>
    obtain ⟨-, collect, -⟩ := (selects_nCollectAppend s b).1 (selects_of_exec h)
    obtain ⟨u, stored, rfl⟩ := body_of_whenSelected_onNext h
    obtain ⟨exist, rfl⟩ := storeNbuf_eq_next.1 stored
    exact .inr ⟨b, .inl ⟨collect, rfl⟩, exist, rfl, rfl⟩
  | nHiDigit =>
    obtain ⟨-, body⟩ := whenSelected_eq_next.1 h
    obtain ⟨v, -, ⟨⟩⟩ := onDigit_eq_next.1 body
    exact .inl ⟨rfl, rfl⟩
  | nLoMatch b =>
    obtain ⟨sel, body⟩ := whenSelected_eq_next.1 h
    obtain ⟨-, low, -⟩ := (selects_nLoMatch s b).1 sel
    obtain ⟨v, -, exist, rfl⟩ := finishNmea_eq_next.1 body
    exact .inr ⟨sentinel, .inr ⟨low, rfl⟩, exist, rfl, rfl⟩
  | nLoMismatch b =>
    obtain ⟨sel, body⟩ := whenSelected_eq_next.1 h
    obtain ⟨-, low, -⟩ := (selects_nLoMismatch s b).1 sel
    obtain ⟨v, -, exist, rfl⟩ := finishNmea_eq_next.1 body
    exact .inr ⟨sentinel, .inr ⟨low, rfl⟩, exist, rfl, rfl⟩
  | _ => simp [Instr.unit] at unit

theorem exec_ubx_writes (unit : i.unit = .ubx) (h : exec i s = .next t) : UbxWrites i.byte s t := by
  cases i with
  | uPayloadByte b =>
    obtain ⟨⟨payload, -⟩, exist, rfl⟩ := exec_uPayloadByte_eq_next.1 h
    exact .inr ⟨payload, exist, rfl, rfl⟩
  | uPayloadLast b =>
    obtain ⟨⟨payload, -⟩, exist, rfl⟩ := exec_uPayloadLast_eq_next.1 h
    exact .inr ⟨payload, exist, rfl, rfl⟩
  | uIdleSync1 | uIdleIgnore | uSync2Ok | uSync2Fail | uClass | uId | uLenLo | uLenHiZero | uLenHiOverflow
  | uLenHiPayload | uCksumA | uCksumBMatch | uCksumBMismatch =>
    obtain ⟨-, ⟨⟩⟩ := whenSelected_eq_next.1 h
    exact .inl ⟨rfl, rfl⟩
  | uPayloadZeroCount | uReservedState9 | uReservedState10To11 | uReservedState12To15 =>
    obtain ⟨-, ⟨⟩⟩ := whenSelected_eq_next.1 h
  | _ => simp [Instr.unit] at unit

theorem nmeaWrites_of_same (same : t.nmea = s.nmea) : NmeaWrites b s t := .inl (by simp [same])

theorem ubxWrites_of_same (same : t.ubx = s.ubx) : UbxWrites b s t := .inl (by simp [same])

theorem ForwardsNmea.writes (h : ForwardsNmea b s t) : NmeaWrites b s t := by
  obtain ⟨-, u, step, same⟩ := h
  obtain ⟨j, ⟨unit, rfl, -⟩, row⟩ := row_of_nmeaStep step
  have writes := exec_nmea_writes unit row
  rw [same]
  exact writes

theorem ForwardsUbx.writes (h : ForwardsUbx b s t) : UbxWrites b s t := by
  obtain ⟨-, u, step, same⟩ := h
  obtain ⟨j, ⟨unit, rfl, -⟩, row⟩ := selected_row_of_ubxStep step
  have writes := exec_ubx_writes unit row
  rw [same]
  exact writes

/-- Forwarding to one framer leaves the other one alone. -/
theorem ForwardsNmea.ubx_eq (h : ForwardsNmea b s t) : t.ubx = s.ubx := by rw [h.frame]

theorem ForwardsUbx.nmea_eq (h : ForwardsUbx b s t) : t.nmea = s.nmea := by rw [h.frame]

/-- Every transition writes one existing cell at most, of one buffer. -/
theorem exec_writes (h : exec i s = .next t) :
    NmeaWrites i.byte s t ∧ UbxWrites i.byte s t ∧ (t.nmea.buf = s.nmea.buf ∨ t.ubx.buf = s.ubx.buf) := by
  cases unit : i.unit with
  | nmea =>
    have same : t.ubx = s.ubx := ubx_of_exec_nmea unit h
    exact ⟨exec_nmea_writes unit h, ubxWrites_of_same same, .inr (by rw [same])⟩
  | ubx =>
    have same : t.nmea = s.nmea := by rw [exec_ubx_frame unit h]
    exact ⟨nmeaWrites_of_same same, exec_ubx_writes unit h, .inl (by rw [same])⟩
  | dsp =>
    obtain rfl | nmea | ubx := exec_dsp_cases unit h
    · exact ⟨.inl ⟨rfl, rfl⟩, .inl ⟨rfl, rfl⟩, .inl rfl⟩
    · exact ⟨nmea.writes, ubxWrites_of_same nmea.ubx_eq, .inr (by rw [nmea.ubx_eq])⟩
    · exact ⟨nmeaWrites_of_same ubx.nmea_eq, ubx.writes, .inl (by rw [ubx.nmea_eq])⟩

theorem NmeaWrites.changed {a : Nat} (h : NmeaWrites b s t)
    (changed : readCell t.nmea.buf a ≠ readCell s.nmea.buf a) : a = s.nmea.len.toNat ∧ a ≤ s.nmeaCap := by
  obtain ⟨same, -⟩ | ⟨v, -, exist, wrote, -⟩ := h
  · exact absurd (by rw [same]) changed
  · have at_len : a = s.nmea.len.toNat := by
      by_contra other
      exact changed (by rw [wrote, readCell_writeCell_ne _ _ other])
    exact ⟨at_len, at_len ▸ exist⟩

theorem UbxWrites.changed {a : Nat} (h : UbxWrites b s t)
    (changed : readCell t.ubx.buf a ≠ readCell s.ubx.buf a) : a = payloadIndex s ∧ a < s.ubxCap := by
  obtain ⟨same, -⟩ | ⟨-, exist, wrote, -⟩ := h
  · exact absurd (by rw [same]) changed
  · have at_index : a = payloadIndex s := by
      by_contra other
      exact changed (by rw [wrote, readCell_writeCell_ne _ _ other])
    exact ⟨at_index, at_index ▸ exist⟩

/-- Settles O37: a changed cell is the one cell that the row writes. -/
theorem oneCellWrittenAndItExists : Obligations.OneCellWrittenAndItExists := by
  intro i s t h
  obtain ⟨nmea, ubx, one⟩ := exec_writes h
  exact ⟨fun _ => nmea.changed, fun _ => ubx.changed, one⟩

end

/-! ### Which cells count as written since reset -/

section
variable {s t : State} {b : Byte}

theorem byteStep_writes (h : byteStep b s = .next t) : NmeaWrites b s t ∧ UbxWrites b s t := by
  obtain ⟨i, ⟨-, rfl, -⟩, run⟩ := byteStep_runs b s
  obtain ⟨nmea, ubx, -⟩ := exec_writes (run.symm.trans h)
  exact ⟨nmea, ubx⟩

/-- The third clause of `ReadAfterResetFaults` for `NBUF`. -/
def NbufAccounted (s t : State) : Prop :=
  t.nmea.buf = s.nmea.buf ∧ t.nmea.fresh = s.nmea.fresh ∨
    (∃ v b rest, s.inputs = .cycle true v b :: rest) ∧ t.nmea.buf = s.nmea.buf ∧ t.nmea.fresh = [] ∨
    (∃ b rest, s.inputs = .cycle false true b :: rest ∧
      (s.nmea.state = NState.collect ∧ t.nmea.buf = writeCell s.nmea.buf s.nmea.len.toNat b ∨
        s.nmea.state = NState.cksumLo ∧ t.nmea.buf = writeCell s.nmea.buf s.nmea.len.toNat sentinel) ∧
      ∀ a : Nat, a ∈ t.nmea.fresh ↔ a = s.nmea.len.toNat ∨ a ∈ s.nmea.fresh)

/-- The third clause of `ReadAfterResetFaults` for `UBUF`. -/
def UbufAccounted (s t : State) : Prop :=
  t.ubx.buf = s.ubx.buf ∧ t.ubx.fresh = s.ubx.fresh ∨
    (∃ v b rest, s.inputs = .cycle true v b :: rest) ∧ t.ubx.buf = s.ubx.buf ∧ t.ubx.fresh = [] ∨
    (∃ b rest, s.inputs = .cycle false true b :: rest ∧ s.ubx.state = UState.payload ∧
      t.ubx.buf = writeCell s.ubx.buf (payloadIndex s) b ∧
      ∀ a : Nat, a ∈ t.ubx.fresh ↔ a = payloadIndex s ∨ a ∈ s.ubx.fresh)

theorem NmeaWrites.accounted {rest : List Stimulus} (byte : s.inputs = .cycle false true b :: rest)
    (h : NmeaWrites b (s.setInputs rest) t) : NbufAccounted s t := by
  obtain same | ⟨v, written, -, buf, fresh⟩ := h
  · exact .inl same
  · refine .inr (.inr ⟨b, rest, byte, ?_, fun a => ?_⟩)
    · obtain ⟨collect, rfl⟩ | ⟨low, rfl⟩ := written
      · exact .inl ⟨collect, buf⟩
      · exact .inr ⟨low, buf⟩
    · rw [fresh]
      exact mem_markFresh s.nmea.fresh s.nmea.len.toNat a

theorem UbxWrites.accounted {rest : List Stimulus} (byte : s.inputs = .cycle false true b :: rest)
    (h : UbxWrites b (s.setInputs rest) t) : UbufAccounted s t := by
  obtain same | ⟨payload, -, buf, fresh⟩ := h
  · exact .inl same
  · refine .inr (.inr ⟨b, rest, byte, payload, buf, fun a => ?_⟩)
    rw [fresh]
    exact mem_markFresh s.ubx.fresh (payloadIndex s) a

/-- Only a byte writes a cell and only a reset empties the lists. -/
theorem step_accounted (h : step s = .next t) : NbufAccounted s t ∧ UbufAccounted s t := by
  obtain ⟨-, rfl⟩ | ⟨_, rest, -, rfl⟩ | ⟨v, b, rest, reset, rfl⟩ | ⟨b, rest, byte, run⟩ | ⟨_, rest, v, -, -, rfl⟩ |
    ⟨_, rest, v, -, -, rfl⟩ := step_eq_next h
  case inr.inr.inl =>
    exact ⟨.inr (.inl ⟨⟨v, b, rest, reset⟩, rfl, rfl⟩), .inr (.inl ⟨⟨v, b, rest, reset⟩, rfl, rfl⟩)⟩
  case inr.inr.inr.inl =>
    obtain ⟨nmea, ubx⟩ := byteStep_writes run
    exact ⟨nmea.accounted byte, ubx.accounted byte⟩
  all_goals exact ⟨.inl ⟨rfl, rfl⟩, .inl ⟨rfl, rfl⟩⟩

theorem step_readNbuf_of_unwritten {a : Half} {rest : List Stimulus} (h : s.inputs = .readNbuf a :: rest)
    (exist : a.toNat ≤ s.nmeaCap) (stale : a.toNat ∉ s.nmea.fresh) : step s = .fault .unwrittenCell :=
  (step_readNbuf h).trans (readNbuf_of_unwritten exist stale)

theorem step_readUbuf_of_unwritten {a : Half} {rest : List Stimulus} (h : s.inputs = .readUbuf a :: rest)
    (exist : a.toNat < s.ubxCap) (stale : a.toNat ∉ s.ubx.fresh) : step s = .fault .unwrittenCell :=
  (step_readUbuf h).trans (readUbuf_of_unwritten exist stale)

end

/-- Settles O39: after a reset cycle both lists are empty, so any read faults; what every step does to them is
`step_accounted`. -/
theorem readAfterResetFaults : Obligations.ReadAfterResetFaults := by
  refine ⟨fun _ => ⟨rfl, rfl, rfl, rfl⟩, fun s v b rest h => ?_, fun s t h => step_accounted h,
    fun s a rest => ⟨step_readNbuf_of_unwritten, step_readUbuf_of_unwritten⟩⟩
  refine ⟨_, step_reset_cycle h, rfl, rfl, rfl, fun a more next exist => ?_, fun a more next exist => ?_⟩
  · exact step_readNbuf_of_unwritten next exist List.not_mem_nil
  · exact step_readUbuf_of_unwritten next exist List.not_mem_nil

end Sys2Proof.Machine
end

section
/-! PROOF. The checksum units (40_checksum.md §2 to §4): one more byte, order, the closed form, and the detection of one
changed byte. -/

namespace Sys2Proof.Machine

/-! ### The NMEA checksum -/

/-- Accumulating from any start is the start with the checksum added. -/
theorem foldl_nckUpdate (c : Byte) (p : List Byte) : p.foldl nckUpdate c = c ^^^ nck p := by
  induction p using List.reverseRecOn with
  | nil => simp [nck]
  | append_singleton p b ih => rw [List.foldl_concat, ih, nck_concat, nckUpdate, nckUpdate, BitVec.xor_assoc]

theorem nck_append (p q : List Byte) : nck (p ++ q) = nck p ^^^ nck q := by
  rw [nck, List.foldl_append, foldl_nckUpdate]
  rfl

theorem nck_cons (b : Byte) (p : List Byte) : nck (b :: p) = b ^^^ nck p := by
  rw [nck, List.foldl_cons, foldl_nckUpdate, nckUpdate, BitVec.zero_xor]

theorem nck_perm {p q : List Byte} (h : p.Perm q) : nck p = nck q := by
  induction h with
  | nil => rfl
  | cons b _ ih => rw [nck_cons, nck_cons, ih]
  | swap a b l => simp only [nck_cons, ← BitVec.xor_assoc, BitVec.xor_comm a b]
  | trans _ _ ih ih' => exact ih.trans ih'

/-- Settles O52: the checksum of a sequence is the sum, bit by bit and without carry, of its bytes. -/
theorem nckOrderIrrelevant : Obligations.NckOrderIrrelevant := by
  refine ⟨nck_concat, fun p q => nck_perm, fun p b => ?_⟩
  rw [nck_cons, nck_cons, ← BitVec.xor_assoc, BitVec.xor_self, BitVec.zero_xor]

/-! ### The UBX checksum -/

/-- The two sums after one more byte (R104, R105). -/
theorem uck_concat (l : List Byte) (b : Byte) :
    uck (l ++ [b]) = ((uck l).1 + b, (uck l).2 + ((uck l).1 + b)) := by
  rw [uck, List.foldl_concat]
  rfl

/-- The plain sum of a byte sequence. -/
def byteSum (l : List Byte) : Nat := (l.map BitVec.toNat).sum

/-- The sum with weights from the number of bytes down to 1. -/
def weightedSum (l : List Byte) : Nat :=
  ((List.range l.length).map fun k => (l.length - k) * (l.getD k 0#8).toNat).sum

theorem byteSum_concat (l : List Byte) (b : Byte) : byteSum (l ++ [b]) = byteSum l + b.toNat := by
  simp [byteSum]

/-- A byte put in front weighs the number of bytes. -/
theorem weightedSum_cons (b : Byte) (l : List Byte) :
    weightedSum (b :: l) = (l.length + 1) * b.toNat + weightedSum l := by
  simp only [weightedSum, List.length_cons, List.range_succ_eq_map, List.map_cons, List.sum_cons, List.map_map]
  congr 1
  simp [Function.comp_def]

/-- One more byte raises every weight by 1. -/
theorem weightedSum_concat (l : List Byte) (b : Byte) :
    weightedSum (l ++ [b]) = weightedSum l + (byteSum l + b.toNat) := by
  induction l with
  | nil => simp [weightedSum, byteSum]
  | cons x l ih =>
    have sum : byteSum (x :: l) = x.toNat + byteSum l := by simp [byteSum]
    rw [List.cons_append, weightedSum_cons, ih, weightedSum_cons, sum, List.length_append, List.length_singleton]
    ring

theorem uck_fst_toNat (l : List Byte) : (uck l).1.toNat = byteSum l % 256 := by
  induction l using List.reverseRecOn with
  | nil => rfl
  | append_singleton l b ih =>
    rw [uck_concat, BitVec.toNat_add, ih, byteSum_concat]
    omega

theorem uck_snd_toNat (l : List Byte) : (uck l).2.toNat = weightedSum l % 256 := by
  induction l using List.reverseRecOn with
  | nil => rfl
  | append_singleton l b ih =>
    rw [uck_concat, BitVec.toNat_add, BitVec.toNat_add, ih, uck_fst_toNat, weightedSum_concat]
    omega

/-- Settles O53: each sum by induction on the sequence from its end, where one byte comes to both. -/
theorem uckClosedForm : Obligations.UckClosedForm := fun l => ⟨uck_fst_toNat l, uck_snd_toNat l⟩

/-! ### One changed byte -/

theorem nck_replace_ne (p q : List Byte) {x y : Byte} (differ : x ≠ y) : nck (p ++ x :: q) ≠ nck (p ++ y :: q) := by
  rw [nck_append, nck_append, nck_cons, nck_cons]
  intro same
  rw [BitVec.xor_right_inj, BitVec.xor_left_inj] at same
  exact differ same

theorem uck_fst_replace_ne (p q : List Byte) {x y : Byte} (differ : x ≠ y) :
    (uck (p ++ x :: q)).1 ≠ (uck (p ++ y :: q)).1 := by
  have sum (z : Byte) : byteSum (p ++ z :: q) = byteSum p + z.toNat + byteSum q := by
    simp [byteSum, Nat.add_assoc]
  intro same
  have equal := congrArg BitVec.toNat same
  rw [uck_fst_toNat, uck_fst_toNat, sum, sum] at equal
  exact differ (BitVec.eq_of_toNat_eq (by omega))

/-- Settles O54: the changed byte is one term of either sum. -/
theorem checksumsDetectOneByteChange : Obligations.ChecksumsDetectOneByteChange :=
  fun p q _ _ differ => ⟨nck_replace_ne p q differ, uck_fst_replace_ne p q differ⟩

end Sys2Proof.Machine
end

section
/-! PROOF. What the framers have taken in (20_memory.md R56, 40_checksum.md R102 and R105): the payload so far, in its
cells and in the checksum, and what every row makes of it. -/

namespace Sys2Proof.Machine

/-! ### Cells that hold bytes -/

theorem holds_nil (m : Memory) (fresh : List Nat) : Holds m fresh [] :=
  ⟨rfl, fun a none_below => absurd none_below (Nat.not_lt_zero a)⟩

/-- A byte stored just past the payload extends it. -/
theorem Holds.append {m : Memory} {fresh : List Nat} {p : List Byte} (h : Holds m fresh p) (b : Byte) :
    Holds (writeCell m p.length b) (markFresh fresh p.length) (p ++ [b]) := by
  obtain ⟨cells, written⟩ := h
  refine ⟨?_, fun a below => ?_⟩
  · rw [List.length_append, List.length_singleton, slice_writeCell_succ, cells, List.map_append]
    rfl
  · rw [List.length_append, List.length_singleton] at below
    rw [mem_markFresh]
    by_cases last : a = p.length
    · exact .inl last
    · exact .inr (written a (by omega))

/-- A byte stored past the payload leaves it. -/
theorem Holds.store_beyond {m : Memory} {fresh : List Nat} {p : List Byte} (h : Holds m fresh p) {a : Nat}
    (beyond : p.length ≤ a) (v : Byte) : Holds (writeCell m a v) (markFresh fresh a) p := by
  obtain ⟨cells, written⟩ := h
  exact ⟨(slice_writeCell_of_le m v beyond).trans cells,
    fun c below => (mem_markFresh fresh a c).2 (.inr (written c below))⟩

/-- A held byte can be read: its cell has it and was written since reset. -/
theorem Holds.readable {m : Memory} {fresh : List Nat} {p : List Byte} (h : Holds m fresh p) {a : Nat}
    (below : a < p.length) : readCell m a = some p[a] ∧ a ∈ fresh := by
  obtain ⟨cells, written⟩ := h
  refine ⟨?_, written a below⟩
  have cell := congrArg (·[a]?) cells
  simpa [slice, below] using cell

/-! ### The NMEA framer -/

/-- The framer has counted, stored and accumulated the payload `p`. -/
def NmeaFramer.Carries (n : NmeaFramer) (p : List Byte) : Prop :=
  p.length = n.len.toNat ∧ star ∉ p ∧ Holds n.buf n.fresh p ∧ n.ck = nck p

/-- The payload that a framer's row leaves when `p` was taken in before it. -/
def Instr.payloadAfter (i : Instr) (p : List Byte) : List Byte :=
  match i with
  | .nIdleStart | .uSync2Ok => []
  | .nCollectAppend b | .uPayloadByte b | .uPayloadLast b => p ++ [b]
  | _ => p

section
variable {i : Instr} {s t : State} {p : List Byte}

/-- Every row that leaves the framer inside a frame keeps its account of the payload: R120 starts it, R123 extends
it. -/
theorem exec_nmea_carries (unit : i.unit = .nmea) (h : exec i s = .next t)
    (carried : s.nmea.state ≠ NState.idle → s.nmea.Carries p) (busy : t.nmea.state ≠ NState.idle) :
    t.nmea.Carries (Instr.payloadAfter i p) := by
  cases i with
  | nIdleStart =>
    obtain ⟨-, ⟨⟩⟩ := whenSelected_eq_next.1 h
    exact ⟨rfl, List.not_mem_nil, holds_nil _ _, rfl⟩
  | nIdleIgnore b =>
    obtain ⟨sel, ⟨⟩⟩ := whenSelected_eq_next.1 h
    exact absurd ((selects_nIdleIgnore s b).1 sel).2 busy
  | nCollectEnd =>
    obtain ⟨sel, ⟨⟩⟩ := whenSelected_eq_next.1 h
    have collect := (selects_nCollectEnd s).1 sel
    exact carried (by rw [collect]; decide)
  | nCollectAppend b =>
    obtain ⟨payload, collect, room⟩ := (selects_nCollectAppend s b).1 (selects_of_exec h)
    rw [exec_nCollectAppend collect payload room] at h
    cases h
    obtain ⟨len, no_star, holds, ck⟩ := carried (by rw [collect]; decide)
    have bound : s.nmeaCap < 65536 := s.cfg.nmeaCap.isLt
    refine ⟨?_, ?_, ?_, ?_⟩
    · show (p ++ [b]).length = (s.nmea.len + 1#16).toNat
      rw [List.length_append, List.length_singleton, len]
      bv_omega
    · simpa [Instr.payloadAfter, no_star] using payload.symm
    · show Holds (writeCell s.nmea.buf s.nmea.len.toNat b) (markFresh s.nmea.fresh s.nmea.len.toNat) (p ++ [b])
      rw [← len]
      exact holds.append b
    · show nckUpdate s.nmea.ck b = nck (p ++ [b])
      rw [nck_concat, ck]
  | nHiDigit b =>
    obtain ⟨sel, body⟩ := whenSelected_eq_next.1 h
    obtain ⟨-, high⟩ := (selects_nHiDigit s b).1 sel
    obtain ⟨v, -, ⟨⟩⟩ := onDigit_eq_next.1 body
    exact carried (by rw [high]; decide)
  | nCollectOverflow | nHiBad | nLoBad =>
    obtain ⟨-, ⟨⟩⟩ := whenSelected_eq_next.1 h
    exact absurd rfl busy
  | nLoMatch | nLoMismatch =>
    obtain ⟨-, body⟩ := whenSelected_eq_next.1 h
    obtain ⟨v, -, -, rfl⟩ := finishNmea_eq_next.1 body
    exact absurd rfl busy
  | _ => simp [Instr.unit] at unit

theorem low_nibble_of_high_digit : ∀ v : BitVec 4, (v ++ 0#4 : Byte).extractLsb' 0 4 = 0#4 := by decide

/-- In `CKSUM_LO` the high digit alone is in `n_exp`: R125 puts it there. -/
theorem exec_nmea_low_nibble (unit : i.unit = .nmea) (h : exec i s = .next t)
    (low : t.nmea.state = NState.cksumLo) : t.nmea.exp.extractLsb' 0 4 = 0#4 := by
  cases i with
  | nHiDigit b =>
    obtain ⟨digit, high⟩ := (selects_nHiDigit s b).1 (selects_of_exec h)
    obtain ⟨v, digit⟩ := Option.isSome_iff_exists.1 digit
    rw [exec_nHiDigit high digit] at h
    cases h
    exact low_nibble_of_high_digit v
  | nIdleIgnore b =>
    obtain ⟨sel, ⟨⟩⟩ := whenSelected_eq_next.1 h
    exact absurd (((selects_nIdleIgnore s b).1 sel).2.symm.trans low) (by decide)
  | nCollectAppend b =>
    obtain ⟨payload, collect, room⟩ := (selects_nCollectAppend s b).1 (selects_of_exec h)
    rw [exec_nCollectAppend collect payload room] at h
    cases h
    exact absurd (collect.symm.trans low) (by decide)
  | nIdleStart | nCollectEnd | nCollectOverflow | nHiBad | nLoBad =>
    obtain ⟨-, ⟨⟩⟩ := whenSelected_eq_next.1 h
    simp only [State.emit_nmea, State.setNmea_nmea, abortNmea_nmea] at low
    exact absurd low (by decide)
  | nLoMatch | nLoMismatch =>
    obtain ⟨-, body⟩ := whenSelected_eq_next.1 h
    obtain ⟨v, -, -, rfl⟩ := finishNmea_eq_next.1 body
    simp only [State.emit_nmea, State.setNmea_nmea] at low
    exact absurd low (by decide)
  | _ => simp [Instr.unit] at unit

end

/-! ### The UBX framer -/

/-- The framer has stored the payload `p` so far, and its accumulators are the checksum of the header bytes it took in
and `p`. -/
def UbxFramer.TookIn (u : UbxFramer) (p : List Byte) : Prop :=
  p.length = payloadSoFar u ∧ Holds u.buf u.fresh p ∧ (u.ckA, u.ckB) = uck (headerSoFar u ++ p)

section
variable {u : UbxFramer} {p : List Byte}

/-- Before the payload. -/
theorem tookIn_iff_of_header {header : List Byte} (none_stored : payloadSoFar u = 0) (taken : headerSoFar u = header) :
    u.TookIn p ↔ p = [] ∧ (u.ckA, u.ckB) = uck header := by
  rw [UbxFramer.TookIn, none_stored, taken, List.length_eq_zero_iff]
  refine and_congr_right fun empty => ?_
  subst empty
  rw [List.append_nil, and_iff_right (holds_nil _ _)]

theorem tookIn_iff_of_cls (c : u.state = UState.cls) : u.TookIn p ↔ p = [] ∧ (u.ckA, u.ckB) = uck [] :=
  tookIn_iff_of_header (by simp [payloadSoFar, c]) (by simp [headerSoFar, c])

theorem tookIn_iff_of_id (c : u.state = UState.id) : u.TookIn p ↔ p = [] ∧ (u.ckA, u.ckB) = uck [u.cls] :=
  tookIn_iff_of_header (by simp [payloadSoFar, c]) (by simp [headerSoFar, c])

theorem tookIn_iff_of_lenLo (c : u.state = UState.lenLo) :
    u.TookIn p ↔ p = [] ∧ (u.ckA, u.ckB) = uck [u.cls, u.id] :=
  tookIn_iff_of_header (by simp [payloadSoFar, c]) (by simp [headerSoFar, c])

theorem tookIn_iff_of_lenHi (c : u.state = UState.lenHi) :
    u.TookIn p ↔ p = [] ∧ (u.ckA, u.ckB) = uck [u.cls, u.id, u.len.extractLsb' 0 8] :=
  tookIn_iff_of_header (by simp [payloadSoFar, c]) (by simp [headerSoFar, c])

theorem tookIn_iff_of_payload (c : u.state = UState.payload) :
    u.TookIn p ↔ p.length = u.len.toNat - u.cnt.toNat ∧ Holds u.buf u.fresh p ∧
      (u.ckA, u.ckB) = uck (ubxHeader u.cls u.id u.len ++ p) := by
  simp [UbxFramer.TookIn, payloadSoFar, headerSoFar, c]

/-- After the payload. -/
theorem tookIn_iff_of_trailer (c : u.state = UState.cksumA ∨ u.state = UState.cksumB) :
    u.TookIn p ↔ p.length = u.len.toNat ∧ Holds u.buf u.fresh p ∧
      (u.ckA, u.ckB) = uck (ubxHeader u.cls u.id u.len ++ p) := by
  obtain c | c := c <;> simp [UbxFramer.TookIn, payloadSoFar, headerSoFar, c]

/-- The accumulators take in one byte (R104). -/
theorem absorb_sums {l : List Byte} (sums : (u.ckA, u.ckB) = uck l) (b : Byte) :
    ((u.absorb b).ckA, (u.absorb b).ckB) = uck (l ++ [b]) := by
  rw [uck_concat, ← sums]
  rfl

end

/-- The low byte of a length that is one byte. -/
theorem low_byte_of_setWidth (b : Byte) : (b.setWidth 16 : Half).extractLsb' 0 8 = b := by
  revert b
  decide

/-- The header of the assembled length (R78). -/
theorem ubxHeader_lenWith (c i : Byte) (s : State) (b : Byte) :
    ubxHeader c i (lenWith s b) = [c, i, s.ubx.len.extractLsb' 0 8] ++ [b] := by
  rw [ubxHeader, lenWith, BitVec.extractLsb'_append_eq_right, BitVec.extractLsb'_append_eq_left]
  rfl

section
variable {i : Instr} {s t : State} {p : List Byte}

/-- Every row that leaves the framer past the sync bytes keeps its account of header and payload: R152 starts it, the
header rows and the payload rows extend it. -/
theorem exec_ubx_tookIn (unit : i.unit = .ubx) (h : exec i s = .next t)
    (count : s.ubx.state = UState.payload → s.ubx.cnt.toNat ≤ s.ubx.len.toNat)
    (taken : 2 ≤ s.ubx.state.toNat → s.ubx.TookIn p) (header : 2 ≤ t.ubx.state.toNat) :
    t.ubx.TookIn (Instr.payloadAfter i p) := by
  have before {c : BitVec 4} (code : s.ubx.state = c) (past : 2 ≤ c.toNat) : s.ubx.TookIn p :=
    taken (code ▸ past)
  have index (payload : s.ubx.state = UState.payload) : payloadIndex s = s.ubx.len.toNat - s.ubx.cnt.toNat :=
    BitVec.toNat_sub_of_le (count payload)
  cases i with
  | uIdleSync1 | uSync2Fail | uLenHiOverflow | uCksumBMatch | uCksumBMismatch =>
    obtain ⟨-, ⟨⟩⟩ := whenSelected_eq_next.1 h
    exact absurd header (by simp)
  | uIdleIgnore =>
    obtain ⟨⟨-, idle⟩, rfl⟩ := exec_uIdleIgnore_eq_next.1 h
    exact absurd header (by simp [idle])
  | uSync2Ok =>
    obtain ⟨-, rfl⟩ := exec_uSync2Ok_eq_next.1 h
    exact (tookIn_iff_of_cls rfl).2 ⟨rfl, rfl⟩
  | uClass b =>
    obtain ⟨cls, rfl⟩ := exec_uClass_eq_next.1 h
    obtain ⟨rfl, sums⟩ := (tookIn_iff_of_cls cls).1 (before cls (by decide))
    exact (tookIn_iff_of_id rfl).2 ⟨rfl, absorb_sums sums b⟩
  | uId b =>
    obtain ⟨id, rfl⟩ := exec_uId_eq_next.1 h
    obtain ⟨rfl, sums⟩ := (tookIn_iff_of_id id).1 (before id (by decide))
    exact (tookIn_iff_of_lenLo rfl).2 ⟨rfl, absorb_sums sums b⟩
  | uLenLo b =>
    obtain ⟨lenLo, rfl⟩ := exec_uLenLo_eq_next.1 h
    obtain ⟨rfl, sums⟩ := (tookIn_iff_of_lenLo lenLo).1 (before lenLo (by decide))
    refine (tookIn_iff_of_lenHi rfl).2 ⟨rfl, ?_⟩
    simp only [State.emit_ubx, State.setUbx_ubx, low_byte_of_setWidth]
    exact absorb_sums sums b
  | uLenHiZero b =>
    obtain ⟨⟨lenHi, zero⟩, rfl⟩ := exec_uLenHiZero_eq_next.1 h
    obtain ⟨rfl, sums⟩ := (tookIn_iff_of_lenHi lenHi).1 (before lenHi (by decide))
    refine (tookIn_iff_of_trailer (.inl rfl)).2 ⟨by simp [zero, Instr.payloadAfter], holds_nil _ _, ?_⟩
    simp only [State.emit_ubx, State.setUbx_ubx, ubxHeader_lenWith]
    exact absorb_sums sums b
  | uLenHiPayload b =>
    obtain ⟨⟨lenHi, -, -⟩, rfl⟩ := exec_uLenHiPayload_eq_next.1 h
    obtain ⟨rfl, sums⟩ := (tookIn_iff_of_lenHi lenHi).1 (before lenHi (by decide))
    refine (tookIn_iff_of_payload rfl).2 ⟨by simp [Instr.payloadAfter], holds_nil _ _, ?_⟩
    simp only [State.emit_ubx, State.setUbx_ubx, ubxHeader_lenWith]
    exact absorb_sums sums b
  | uPayloadByte b =>
    obtain ⟨⟨payload, more⟩, -, rfl⟩ := exec_uPayloadByte_eq_next.1 h
    obtain ⟨len, holds, sums⟩ := (tookIn_iff_of_payload payload).1 (before payload (by decide))
    have le := count payload
    refine (tookIn_iff_of_payload (u := (payloadStored s b _ _).ubx) payload).2 ⟨?_, ?_, ?_⟩
    · show (p ++ [b]).length = s.ubx.len.toNat - (s.ubx.cnt - 1#16).toNat
      rw [List.length_append, List.length_singleton, len]
      bv_omega
    · show Holds (writeCell s.ubx.buf (payloadIndex s) b) (markFresh s.ubx.fresh (payloadIndex s)) (p ++ [b])
      rw [index payload, ← len]
      exact holds.append b
    · exact (absorb_sums sums b).trans (by rw [List.append_assoc]; rfl)
  | uPayloadLast b =>
    obtain ⟨⟨payload, last⟩, -, rfl⟩ := exec_uPayloadLast_eq_next.1 h
    obtain ⟨len, holds, sums⟩ := (tookIn_iff_of_payload payload).1 (before payload (by decide))
    have le := count payload
    refine (tookIn_iff_of_trailer (.inl rfl)).2 ⟨?_, ?_, ?_⟩
    · show (p ++ [b]).length = s.ubx.len.toNat
      rw [List.length_append, List.length_singleton, len]
      bv_omega
    · show Holds (writeCell s.ubx.buf (payloadIndex s) b) (markFresh s.ubx.fresh (payloadIndex s)) (p ++ [b])
      rw [index payload, ← len]
      exact holds.append b
    · exact (absorb_sums sums b).trans (by rw [List.append_assoc]; rfl)
  | uCksumA b =>
    obtain ⟨cksumA, rfl⟩ := exec_uCksumA_eq_next.1 h
    exact (tookIn_iff_of_trailer (.inr rfl)).2 ((tookIn_iff_of_trailer (.inl cksumA)).1 (before cksumA (by decide)))
  | uPayloadZeroCount | uReservedState9 | uReservedState10To11 | uReservedState12To15 =>
    obtain ⟨-, ⟨⟩⟩ := whenSelected_eq_next.1 h
  | _ => simp [Instr.unit] at unit

/-- R34's bounds in `PAYLOAD`, and after it the bound on the declared length. -/
def BodyOk (s : State) : Prop :=
  (s.ubx.state = UState.payload → 1 ≤ s.ubx.cnt.toNat ∧ s.ubx.cnt.toNat ≤ s.ubx.len.toNat) ∧
  (s.ubx.state = UState.payload ∨ s.ubx.state = UState.cksumA ∨ s.ubx.state = UState.cksumB →
    s.ubx.len.toNat ≤ s.ubxCap)

/-- Before the payload there is nothing to bound. -/
theorem bodyOk_of_code {c : BitVec 4} (code : s.ubx.state = c)
    (early : c ≠ UState.payload ∧ c ≠ UState.cksumA ∧ c ≠ UState.cksumB) : BodyOk s := by
  subst code
  obtain ⟨not_payload, not_cksumA, not_cksumB⟩ := early
  refine ⟨fun payload => absurd payload not_payload, ?_⟩
  rintro (payload | cksumA | cksumB)
  · exact absurd payload not_payload
  · exact absurd cksumA not_cksumA
  · exact absurd cksumB not_cksumB

/-- After the payload the bound on the length is all. -/
theorem bodyOk_of_trailer {c : BitVec 4} (code : s.ubx.state = c) (past : c ≠ UState.payload)
    (fits : s.ubx.len.toNat ≤ s.ubxCap) : BodyOk s :=
  ⟨fun payload => absurd (code.symm.trans payload) past, fun _ => fits⟩

/-- R157 and R159 enter the body with a length that fits, R160 counts down from 2 or more. -/
theorem exec_ubx_keeps_bodyOk (unit : i.unit = .ubx) (h : exec i s = .next t) (ok : BodyOk s) : BodyOk t := by
  obtain ⟨count, fits⟩ := ok
  cases i with
  | uIdleSync1 | uSync2Ok | uSync2Fail | uClass | uId | uLenLo | uLenHiOverflow | uCksumBMatch
  | uCksumBMismatch =>
    obtain ⟨-, ⟨⟩⟩ := whenSelected_eq_next.1 h
    refine bodyOk_of_code rfl ?_
    simp only [State.emit_ubx, State.setUbx_ubx, abortUbx_ubx]
    decide
  | uIdleIgnore =>
    obtain ⟨-, rfl⟩ := exec_uIdleIgnore_eq_next.1 h
    exact ⟨count, fits⟩
  | uLenHiZero b =>
    obtain ⟨⟨-, zero⟩, rfl⟩ := exec_uLenHiZero_eq_next.1 h
    exact bodyOk_of_trailer (c := UState.cksumA) rfl (by decide) (by simp [zero])
  | uLenHiPayload b =>
    obtain ⟨⟨-, positive, small⟩, rfl⟩ := exec_uLenHiPayload_eq_next.1 h
    exact ⟨fun _ => ⟨positive, le_rfl⟩, fun _ => small⟩
  | uPayloadByte b =>
    obtain ⟨⟨payload, more⟩, -, rfl⟩ := exec_uPayloadByte_eq_next.1 h
    obtain ⟨-, le⟩ := count payload
    refine ⟨fun _ => ?_, fun _ => fits (.inl payload)⟩
    show 1 ≤ (s.ubx.cnt - 1#16).toNat ∧ (s.ubx.cnt - 1#16).toNat ≤ s.ubx.len.toNat
    bv_omega
  | uPayloadLast b =>
    obtain ⟨⟨payload, -⟩, -, rfl⟩ := exec_uPayloadLast_eq_next.1 h
    exact bodyOk_of_trailer (c := UState.cksumA) rfl (by decide) (fits (.inl payload))
  | uCksumA b =>
    obtain ⟨cksumA, rfl⟩ := exec_uCksumA_eq_next.1 h
    exact bodyOk_of_trailer (c := UState.cksumB) rfl (by decide) (fits (.inr (.inl cksumA)))
  | uPayloadZeroCount | uReservedState9 | uReservedState10To11 | uReservedState12To15 =>
    obtain ⟨-, ⟨⟩⟩ := whenSelected_eq_next.1 h
  | _ => simp [Instr.unit] at unit

end

end Sys2Proof.Machine
end

section
/-! PROOF. The invariant (10_state.md §3 and §4, 40_checksum.md §2 and §3, 43_dispatcher.md §2): reset meets it, every
step keeps it, no byte stops the block in it (60_exceptions.md §1), and what is delivered from it is valid and readable
(30_encoding.md §2, 20_memory.md §2 and §3). -/

namespace Sys2Proof.Machine

/-! ### The framers' parts -/

section
variable {i : Instr} {s t : State} {b : Byte}

theorem NmeaInv.exists_carried (inv : NmeaInv s) : ∃ p, s.nmea.state ≠ NState.idle → s.nmea.Carries p := by
  obtain ⟨-, -, payload, -⟩ := inv
  by_cases idle : s.nmea.state = NState.idle
  · exact ⟨[], fun busy => absurd idle busy⟩
  · obtain ⟨p, carried⟩ := payload idle
    exact ⟨p, fun _ => carried⟩

theorem UbxInv.exists_tookIn (inv : UbxInv s) : ∃ p, 2 ≤ s.ubx.state.toNat → s.ubx.TookIn p := by
  obtain ⟨-, -, -, taken⟩ := inv
  by_cases header : 2 ≤ s.ubx.state.toNat
  · obtain ⟨p, took⟩ := taken header
    exact ⟨p, fun _ => took⟩
  · exact ⟨[], fun past => absurd past header⟩

theorem UbxInv.bodyOk (inv : UbxInv s) : BodyOk s := by
  obtain ⟨-, count, fits, -⟩ := inv
  exact ⟨count, fits⟩

theorem exec_nmea_keeps_nmeaInv (unit : i.unit = .nmea) (h : exec i s = .next t) (ok : WithinBounds s)
    (inv : NmeaInv s) : NmeaInv t := by
  obtain ⟨nbuf, nlen, -⟩ := exec_nmea_keeps_withinBounds unit h ok
  obtain ⟨p, carried⟩ := inv.exists_carried
  exact ⟨nbuf, nlen, fun busy => ⟨_, exec_nmea_carries unit h carried busy⟩, exec_nmea_low_nibble unit h⟩

theorem exec_ubx_keeps_ubxInv (unit : i.unit = .ubx) (h : exec i s = .next t) (ok : WithinBounds s)
    (inv : UbxInv s) : UbxInv t := by
  obtain ⟨-, -, ubuf⟩ := exec_ubx_keeps_withinBounds unit h ok
  obtain ⟨p, taken⟩ := inv.exists_tookIn
  obtain ⟨count, fits⟩ := exec_ubx_keeps_bodyOk unit h inv.bodyOk
  have le (payload : s.ubx.state = UState.payload) : s.ubx.cnt.toNat ≤ s.ubx.len.toNat := (inv.bodyOk.1 payload).2
  exact ⟨ubuf, count, fits, fun header => ⟨_, exec_ubx_tookIn unit h le taken header⟩⟩

/-- The framer's part speaks of its own registers and of the capacity. -/
theorem NmeaInv.congr (inv : NmeaInv s) (cfg : t.cfg = s.cfg) (nmea : t.nmea = s.nmea) : NmeaInv t := by
  rwa [NmeaInv, State.nmeaCap, cfg, nmea]

theorem UbxInv.congr (inv : UbxInv s) (cfg : t.cfg = s.cfg) (ubx : t.ubx = s.ubx) : UbxInv t := by
  rwa [UbxInv, State.ubxCap, cfg, ubx]

/-! ### Every byte and every step keep the invariant -/

theorem ForwardsNmea.cfg_eq (h : ForwardsNmea b s t) : t.cfg = s.cfg := by rw [h.frame]

theorem ForwardsUbx.cfg_eq (h : ForwardsUbx b s t) : t.cfg = s.cfg := by rw [h.frame]

theorem ForwardsNmea.keeps_nmeaInv (h : ForwardsNmea b s t) (ok : WithinBounds s) (inv : NmeaInv s) :
    NmeaInv t := by
  obtain ⟨-, u, step, same⟩ := h
  obtain ⟨j, ⟨unit, -, -⟩, row⟩ := row_of_nmeaStep step
  have inv_u := exec_nmea_keeps_nmeaInv unit row ok inv
  rw [same]
  exact inv_u

theorem ForwardsUbx.keeps_ubxInv (h : ForwardsUbx b s t) (ok : WithinBounds s) (inv : UbxInv s) : UbxInv t := by
  obtain ⟨-, u, step, same⟩ := h
  obtain ⟨j, ⟨unit, -, -⟩, row⟩ := selected_row_of_ubxStep step
  have inv_u := exec_ubx_keeps_ubxInv unit row ok inv
  rw [same]
  exact inv_u

theorem byteStep_keeps_framers (h : byteStep b s = .next t) (ok : WithinBounds s) (nmea : NmeaInv s)
    (ubx : UbxInv s) : NmeaInv t ∧ UbxInv t := by
  obtain rfl | toNmea | toUbx := byteStep_cases h
  · exact ⟨nmea, ubx⟩
  · exact ⟨toNmea.keeps_nmeaInv ok nmea, ubx.congr toNmea.cfg_eq toNmea.ubx_eq⟩
  · exact ⟨nmea.congr toUbx.cfg_eq toUbx.nmea_eq, toUbx.keeps_ubxInv ok ubx⟩

/-- No row writes a code that R76 reserves. -/
theorem byteStep_keeps_dLegal (h : byteStep b s = .next t) (legal : s.dState ≠ DState.reserved) :
    t.dState ≠ DState.reserved := by
  obtain ⟨i, -, run⟩ := byteStep_runs b s
  obtain same | code | code | code := dState_of_exec (run.symm.trans h)
  · rwa [same]
  all_goals rw [code]; decide

theorem byteStep_keeps_uLegal (h : byteStep b s = .next t) (legal : s.ubx.state.toNat ≤ 8) (body : BodyOk s) :
    t.ubx.state.toNat ≤ 8 := by
  obtain ⟨count, -⟩ := body
  obtain ⟨i, -, run⟩ := byteStep_runs b s
  have not_ended (payload : s.ubx.state = UState.payload) : s.ubx.cnt ≠ 0#16 := by
    obtain ⟨positive, -⟩ := count payload
    bv_omega
  exact (exec_keeps_notReserved (run.symm.trans h) ⟨legal, not_ended⟩).1

theorem byteStep_keeps_inv (h : byteStep b s = .next t) (inv : Inv s) : Inv t := by
  have ok := withinBounds_of_inv inv
  obtain ⟨⟨d_legal, u_legal⟩, coupled, nmea, ubx⟩ := inv
  exact ⟨⟨byteStep_keeps_dLegal h d_legal, byteStep_keeps_uLegal h u_legal ubx.bodyOk⟩,
    byteStep_keeps_coupled h coupled, byteStep_keeps_framers h ok nmea ubx⟩

/-- A reset leaves the cells and sets every register of the invariant to its value outside a frame. -/
theorem inv_applyReset (ok : WithinBounds s) : Inv (applyReset s) :=
  inv_of_allIdle ⟨rfl, rfl, rfl⟩ ⟨ok.nbuf, Nat.zero_le _, ok.ubuf⟩

theorem step_keeps_inv (h : step s = .next t) (inv : Inv s) : Inv t := by
  obtain ⟨-, rfl⟩ | ⟨_, rest, -, rfl⟩ | ⟨_, _, rest, -, rfl⟩ | ⟨b, rest, -, byte⟩ | ⟨_, rest, v, -, -, rfl⟩ |
    ⟨_, rest, v, -, -, rfl⟩ := step_eq_next h
  case inr.inr.inl => exact inv_applyReset (s := s.setInputs rest) (withinBounds_of_inv inv)
  case inr.inr.inr.inl => exact byteStep_keeps_inv (s := s.setInputs rest) byte inv
  all_goals exact inv

/-- Settles O44: a byte keeps every part of the invariant, a reset restores it, and nothing else touches what it speaks
of. -/
theorem stepKeepsInvariant : Obligations.StepKeepsInvariant := fun _ _ inv h => step_keeps_inv h inv

/-- Settles O43: after reset every unit is idle, and no cell holds a value. -/
theorem resetMeetsInvariant : Obligations.ResetMeetsInvariant := by
  have inv (cfg : Config) : Inv (State.resetWith cfg) :=
    inv_of_allIdle ⟨rfl, rfl, rfl⟩ ⟨⟨rfl, by simp⟩, Nat.zero_le _, ⟨rfl, by simp⟩⟩
  exact ⟨inv Config.built, inv⟩

/-! ### No byte stops the block -/

/-- With legal codes and the bounds of R26 and R34 the dispatcher's row and the framer's row it forwards to answer. -/
theorem byteStep_answers (legal : LegalCodes s) (room : s.nmea.len.toNat ≤ s.nmeaCap) (count : CountdownOk s)
    (b : Byte) : ∃ t, byteStep b s = .next t := by
  obtain ⟨d_legal, u_legal⟩ := legal
  obtain idle | fwd | fwd | reserved := dState_code_cases s.dState
  · rw [byteStep_of_idle b idle]
    split_ifs with start sync
    · obtain ⟨t, step⟩ := nmeaStep_answers room dollar
      exact ⟨_, exec_dIdleNmea idle step⟩
    · obtain ⟨t, step⟩ := ubxStep_answers u_legal count sync1
      exact ⟨_, exec_dIdleUbx idle step⟩
    · exact ⟨_, exec_dIdleDiscard start sync idle⟩
  · obtain ⟨t, step⟩ := nmeaStep_answers room b
    exact ⟨_, (byteStep_of_inNmea b fwd).trans (exec_dFwdNmea fwd step)⟩
  · obtain ⟨t, step⟩ := ubxStep_answers u_legal count b
    exact ⟨_, (byteStep_of_inUbx b fwd).trans (exec_dFwdUbx fwd step)⟩
  · exact absurd reserved d_legal

theorem BodyOk.countdownOk (body : BodyOk s) : CountdownOk s := by
  obtain ⟨count, fits⟩ := body
  intro payload
  obtain ⟨positive, le⟩ := count payload
  exact ⟨positive, le, fits (.inl payload)⟩

theorem byteStep_answers_of_inv (inv : Inv s) (b : Byte) : ∃ t, byteStep b s = .next t ∧ Inv t := by
  have ⟨legal, _, ⟨_, room, _⟩, ubx⟩ := inv
  obtain ⟨t, h⟩ := byteStep_answers legal room ubx.bodyOk.countdownOk b
  exact ⟨t, h, byteStep_keeps_inv h inv⟩

/-- Settles O46: the bounds of the invariant rule out the reserved rows and the stores without a cell. -/
theorem noByteStopsTheBlock : Obligations.NoByteStopsTheBlock := fun _ b inv => byteStep_answers_of_inv inv b

/-! ### What the framers report -/

/-- The NMEA framer completed its frame (R127, R128) with the digit `v`, and `e` is the verdict on the two digits. -/
def NmeaReports (b : Byte) (v : BitVec 4) (s : State) (e : Event) : Prop :=
  s.nmea.state = NState.cksumLo ∧ hexval b = some v ∧ s.nmea.len.toNat ≤ s.nmeaCap ∧
    (s.nmea.exp + v.setWidth 8 = s.nmea.ck ∧ e = .nmeaFrame s.nmea.len (slice s.nmea.buf s.nmea.len.toNat) ∨
      e = .nmeaChecksumError s.nmea.len (slice s.nmea.buf s.nmea.len.toNat))

/-- A row of the NMEA framer reports nothing, an overflow (R124), or a completed frame. -/
theorem exec_nmea_event (unit : i.unit = .nmea) (h : exec i s = .next t) :
    t.evt = .none ∨ (∃ n, t.evt = .nmeaOverflow n ∧ t.nmea.state = NState.idle) ∨
      ∃ v, NmeaReports i.byte v s t.evt ∧ t = completed s v t.evt := by
  cases i with
  | nIdleStart | nIdleIgnore | nCollectEnd | nHiBad | nLoBad =>
    obtain ⟨-, ⟨⟩⟩ := whenSelected_eq_next.1 h
    exact .inl rfl
  | nCollectAppend =>
    obtain ⟨u, -, rfl⟩ := body_of_whenSelected_onNext h
    exact .inl rfl
  | nHiDigit =>
    obtain ⟨-, body⟩ := whenSelected_eq_next.1 h
    obtain ⟨v, -, ⟨⟩⟩ := onDigit_eq_next.1 body
    exact .inl rfl
  | nCollectOverflow =>
    obtain ⟨-, ⟨⟩⟩ := whenSelected_eq_next.1 h
    exact .inr (.inl ⟨_, rfl, rfl⟩)
  | nLoMatch b =>
    obtain ⟨sel, body⟩ := whenSelected_eq_next.1 h
    obtain ⟨-, low, agree⟩ := (selects_nLoMatch s b).1 sel
    obtain ⟨v, digit, room, rfl⟩ := finishNmea_eq_next.1 body
    rw [nDigitsMatch_of_some digit, beq_iff_eq] at agree
    exact .inr (.inr ⟨v, ⟨low, digit, room, .inl ⟨agree, rfl⟩⟩, rfl⟩)
  | nLoMismatch b =>
    obtain ⟨sel, body⟩ := whenSelected_eq_next.1 h
    obtain ⟨-, low, -⟩ := (selects_nLoMismatch s b).1 sel
    obtain ⟨v, digit, room, rfl⟩ := finishNmea_eq_next.1 body
    exact .inr (.inr ⟨v, ⟨low, digit, room, .inr rfl⟩, rfl⟩)
  | _ => simp [Instr.unit] at unit

/-- The state in which R163 leaves the block. -/
def delivered (s : State) : State :=
  (s.setUbx { s.ubx with state := UState.idle }).emit
    (.ubxFrame s.ubx.cls s.ubx.id s.ubx.len (slice s.ubx.buf s.ubx.len.toNat))

/-- A row of the UBX framer reports nothing, an error (R158, R164), or a valid frame. -/
theorem exec_ubx_event (unit : i.unit = .ubx) (h : exec i s = .next t) :
    t.evt = .none ∨ (∃ c j n k, t.evt = .ubxError c j n k ∧ t.ubx.state = UState.idle) ∨
      (s.ubx.state = UState.cksumB ∧ s.ubx.expA = s.ubx.ckA ∧ i.byte = s.ubx.ckB) ∧ t = delivered s := by
  cases i with
  | uIdleSync1 | uIdleIgnore | uSync2Ok | uSync2Fail | uClass | uId | uLenLo | uLenHiZero | uLenHiPayload
  | uCksumA =>
    obtain ⟨-, ⟨⟩⟩ := whenSelected_eq_next.1 h
    exact .inl rfl
  | uPayloadByte | uPayloadLast =>
    obtain ⟨u, -, rfl⟩ := body_of_whenSelected_onNext h
    exact .inl rfl
  | uLenHiOverflow | uCksumBMismatch =>
    obtain ⟨-, ⟨⟩⟩ := whenSelected_eq_next.1 h
    exact .inr (.inl ⟨_, _, _, _, rfl, rfl⟩)
  | uCksumBMatch => exact .inr (.inr (exec_uCksumBMatch_eq_next.1 h))
  | uPayloadZeroCount | uReservedState9 | uReservedState10To11 | uReservedState12To15 =>
    obtain ⟨-, ⟨⟩⟩ := whenSelected_eq_next.1 h
  | _ => simp [Instr.unit] at unit

/-- Where a reported NMEA payload comes from: the block completed the frame with this byte. -/
theorem byteStep_reports_nmea (h : byteStep b s = .next t) {n : Half} {p : List (Option Byte)}
    (event : t.evt = .nmeaFrame n p ∨ t.evt = .nmeaChecksumError n p) :
    ForwardsNmea b s t ∧ ∃ v, NmeaReports b v s t.evt ∧ t = (completed s v t.evt).gotoD t.dState := by
  obtain rfl | toNmea | ⟨-, u, step, same⟩ := byteStep_cases h
  · rcases event with e | e <;> cases e
  · refine ⟨toNmea, ?_⟩
    obtain ⟨-, u, step, same⟩ := toNmea
    have evt : t.evt = u.evt := by rw [same]; rfl
    rw [evt] at event ⊢
    obtain ⟨j, ⟨unit, rfl, -⟩, row⟩ := row_of_nmeaStep step
    obtain none | ⟨m, overflow, -⟩ | ⟨v, reports, done⟩ := exec_nmea_event unit row
    · rw [none] at event
      rcases event with e | e <;> cases e
    · rw [overflow] at event
      rcases event with e | e <;> cases e
    · exact ⟨v, reports, same.trans (congrArg (·.gotoD t.dState) done)⟩
  · have evt : t.evt = u.evt := by rw [same]; rfl
    rw [evt] at event
    obtain ⟨j, ⟨unit, rfl, -⟩, row⟩ := selected_row_of_ubxStep step
    obtain none | ⟨c, k, m, e, error, -⟩ | ⟨-, rfl⟩ := exec_ubx_event unit row
    · rw [none] at event
      rcases event with e | e <;> cases e
    · rw [error] at event
      rcases event with e | e <;> cases e
    · rcases event with e | e <;> cases e

/-- Where a delivered UBX frame comes from: both checksum bytes agree. -/
theorem byteStep_reports_ubx (h : byteStep b s = .next t) {c k : Byte} {n : Half} {p : List (Option Byte)}
    (event : t.evt = .ubxFrame c k n p) :
    ForwardsUbx b s t ∧ (s.ubx.state = UState.cksumB ∧ s.ubx.expA = s.ubx.ckA ∧ b = s.ubx.ckB) ∧
      t = (delivered s).gotoD t.dState := by
  obtain rfl | ⟨-, u, step, same⟩ | toUbx := byteStep_cases h
  · cases event
  · have evt : t.evt = u.evt := by rw [same]; rfl
    rw [evt] at event
    obtain ⟨j, ⟨unit, rfl, -⟩, row⟩ := row_of_nmeaStep step
    obtain none | ⟨m, overflow, -⟩ | ⟨v, ⟨-, -, -, ⟨-, e⟩ | e⟩, -⟩ := exec_nmea_event unit row
    · cases none.symm.trans event
    · cases overflow.symm.trans event
    · cases e.symm.trans event
    · cases e.symm.trans event
  · refine ⟨toUbx, ?_⟩
    obtain ⟨-, u, step, same⟩ := toUbx
    have evt : t.evt = u.evt := by rw [same]; rfl
    rw [evt] at event
    obtain ⟨j, ⟨unit, rfl, -⟩, row⟩ := selected_row_of_ubxStep step
    obtain none | ⟨_, _, _, _, error, -⟩ | ⟨agree, done⟩ := exec_ubx_event unit row
    · cases none.symm.trans event
    · cases error.symm.trans event
    · exact ⟨agree, same.trans (congrArg (·.gotoD t.dState) done)⟩

/-! ### What is delivered -/

/-- In `CKSUM_LO` the invariant knows the payload. -/
theorem NmeaReports.carried {v : BitVec 4} {e : Event} (reports : NmeaReports b v s e) (inv : NmeaInv s) :
    ∃ p, s.nmea.Carries p := by
  obtain ⟨low, -⟩ := reports
  obtain ⟨p, carried⟩ := inv.exists_carried
  exact ⟨p, carried (by rw [low]; decide)⟩

/-- The reported payload is the one carried. -/
theorem NmeaFramer.Carries.slice_eq {n : NmeaFramer} {p : List Byte} (carried : n.Carries p) :
    slice n.buf n.len.toNat = p.map some := by
  obtain ⟨len, -, ⟨cells, -⟩, -⟩ := carried
  rw [← len, cells]

/-- Settles O48: a completed NMEA frame carries the payload of the invariant, whose checksum is `n_ck`; a UBX frame is
delivered when the received pair is the accumulators. -/
theorem deliveredFramesAreValid : Obligations.DeliveredFramesAreValid := by
  intro s t b inv h
  obtain ⟨-, -, nmea, ubx⟩ := inv
  refine ⟨fun n p event => ?_, fun c k n p event => ?_⟩
  · obtain ⟨-, v, reports, -⟩ := byteStep_reports_nmea h (.inl event)
    obtain ⟨q, carried⟩ := reports.carried nmea
    have payload := carried.slice_eq
    obtain ⟨len, no_star, -, ck⟩ := carried
    obtain ⟨-, digit, room, ⟨agree, e⟩ | e⟩ := reports
    · cases e.symm.trans event
      exact ⟨q, v, payload, len, room, no_star, digit, agree.trans ck⟩
    · cases e.symm.trans event
  · obtain ⟨-, ⟨cksumB, first, second⟩, done⟩ := byteStep_reports_ubx h event
    obtain ⟨q, taken⟩ := ubx.exists_tookIn
    obtain ⟨len, ⟨cells, -⟩, sums⟩ := (tookIn_iff_of_trailer (.inr cksumB)).1 (taken (by rw [cksumB]; decide))
    obtain ⟨-, fits⟩ := ubx.bodyOk
    rw [done] at event
    cases event
    refine ⟨q, ?_, len, fits (.inr (.inr cksumB)), ?_⟩
    · rw [← len, cells]
    · rw [← sums, first, second]

/-- The completing row wrote the sentinel past the payload, whose cells were written in this frame. -/
theorem nmea_payload_readable (inv : NmeaInv s) (h : byteStep b s = .next t) {n : Half} {p : List (Option Byte)}
    (event : t.evt = .nmeaFrame n p ∨ t.evt = .nmeaChecksumError n p) :
    (∀ a : Nat, a < n.toNat → ∃ v : Byte, p[a]? = some (some v) ∧ readNbuf t a = .next (t.setNbRead v)) ∧
      readNbuf t n.toNat = .next (t.setNbRead sentinel) := by
  obtain ⟨-, v, reports, done⟩ := byteStep_reports_nmea h event
  obtain ⟨q, carried⟩ := reports.carried inv
  have payload := carried.slice_eq
  obtain ⟨len, -, holds, -⟩ := carried
  obtain ⟨-, -, room, verdict⟩ := reports
  obtain ⟨rfl, rfl⟩ : n = s.nmea.len ∧ p = q.map some := by
    rw [← payload]
    obtain ⟨-, e⟩ | e := verdict <;> rcases event with e' | e' <;> cases e.symm.trans e' <;> exact ⟨rfl, rfl⟩
  have cells : t.nmea.buf = writeCell s.nmea.buf s.nmea.len.toNat sentinel := by rw [done]; rfl
  have written : t.nmea.fresh = markFresh s.nmea.fresh s.nmea.len.toNat := by rw [done]; rfl
  have cap : t.nmeaCap = s.nmeaCap := by rw [done]; rfl
  have holds_after : Holds t.nmea.buf t.nmea.fresh q := by
    rw [cells, written]
    exact holds.store_beyond len.le sentinel
  refine ⟨fun a below => ?_, readNbuf_eq_next.2 ⟨cap ▸ room, ?_, sentinel, ?_, rfl⟩⟩
  · rw [← len] at below
    obtain ⟨cell, fresh⟩ := holds_after.readable below
    exact ⟨q[a], by simp [below], readNbuf_eq_next.2 ⟨by omega, fresh, _, cell, rfl⟩⟩
  · rw [written]
    exact (mem_markFresh _ _ _).2 (.inl rfl)
  · rw [cells]
    exact readCell_writeCell_self _ _ _

/-- The delivering row writes no cell, and the payload's cells were written in this frame. -/
theorem ubx_payload_readable (inv : UbxInv s) (h : byteStep b s = .next t) {c k : Byte} {n : Half}
    {p : List (Option Byte)} (event : t.evt = .ubxFrame c k n p) (a : Nat) (below : a < n.toNat) :
    ∃ v : Byte, p[a]? = some (some v) ∧ readUbuf t a = .next (t.setUbRead v) := by
  obtain ⟨-, ⟨cksumB, -, -⟩, done⟩ := byteStep_reports_ubx h event
  obtain ⟨q, taken⟩ := inv.exists_tookIn
  obtain ⟨len, holds, -⟩ := (tookIn_iff_of_trailer (.inr cksumB)).1 (taken (by rw [cksumB]; decide))
  obtain ⟨-, fits⟩ := inv.bodyOk
  have room := fits (.inr (.inr cksumB))
  have payload : slice s.ubx.buf s.ubx.len.toNat = q.map some := by rw [← len, holds.1]
  have evt : t.evt = (delivered s).evt := by rw [done]; rfl
  cases evt.symm.trans event
  rw [← len] at below
  have holds_after : Holds t.ubx.buf t.ubx.fresh q := by rw [done]; exact holds
  have cap : t.ubxCap = s.ubxCap := by rw [done]; rfl
  obtain ⟨cell, fresh⟩ := holds_after.readable below
  exact ⟨q[a], by simp [payload, below], readUbuf_eq_next.2 ⟨by omega, fresh, _, cell, rfl⟩⟩

/-- Settles O49, by the two protocols' reads. -/
theorem deliveredPayloadIsReadable : Obligations.DeliveredPayloadIsReadable := by
  intro s t b inv h
  obtain ⟨-, -, nmea, ubx⟩ := inv
  exact ⟨fun _ _ event => nmea_payload_readable nmea h event, fun _ _ _ _ event => ubx_payload_readable ubx h event⟩

end

end Sys2Proof.Machine
end

section
/-! PROOF. How long a delivered payload stays in its buffer (70_reset_and_hazards.md §3): an event ends the frame, and
the next frame needs two bytes to reach `NBUF` and seven to reach `UBUF`. -/

namespace Sys2Proof.Machine

section
variable {i : Instr} {s t u : State} {b : Byte}

/-! ### An event ends the frame -/

theorem nmeaStep_event_idle (h : nmeaStep b s = .next t) (event : t.evt ≠ .none) : t.nmea.state = NState.idle := by
  obtain ⟨j, ⟨unit, -, -⟩, row⟩ := row_of_nmeaStep h
  obtain none | ⟨-, -, idle⟩ | ⟨v, -, done⟩ := exec_nmea_event unit row
  · exact absurd none event
  · exact idle
  · rw [done]
    rfl

theorem ubxStep_event_idle (h : ubxStep b s = .next t) (event : t.evt ≠ .none) : t.ubx.state = UState.idle := by
  obtain ⟨j, ⟨unit, -, -⟩, row⟩ := selected_row_of_ubxStep h
  obtain none | ⟨-, -, -, -, -, idle⟩ | ⟨-, done⟩ := exec_ubx_event unit row
  · exact absurd none event
  · exact idle
  · rw [done]
    rfl

/-- In a coupled state of legal code the dispatcher is `IDLE` when both framers are. -/
theorem Coupled.allIdle_of_framers (c : Coupled s) (legal : s.dState ≠ DState.reserved)
    (nmea : s.nmea.state = NState.idle) (ubx : s.ubx.state = UState.idle) : AllIdle s := by
  obtain ⟨-, inNmea, inUbx⟩ := c
  obtain d | d | d | d := dState_code_cases s.dState
  · exact ⟨d, nmea, ubx⟩
  · exact absurd nmea (inNmea d).1
  · exact absurd ubx (inUbx d).1
  · exact absurd d legal

/-- After an event the whole block is idle. -/
theorem byteStep_event_allIdle (c : Coupled s) (h : byteStep b s = .next t) (event : t.evt ≠ .none) : AllIdle t := by
  have ⟨c_idle, c_inNmea, c_inUbx⟩ := c
  have coupled := byteStep_keeps_coupled h c
  have legal {d : BitVec 2} (code : s.dState = d) (ok : d ≠ DState.reserved) : t.dState ≠ DState.reserved :=
    byteStep_keeps_dLegal h (code ▸ ok)
  obtain rfl | toNmea | toUbx := byteStep_cases h
  · exact absurd rfl event
  · have ubx := toNmea.ubx_eq
    obtain ⟨d, u, step, same⟩ := toNmea
    have nmea : t.nmea.state = NState.idle := by
      rw [same] at event ⊢
      exact nmeaStep_event_idle (t := u) step event
    obtain d | d := d
    · exact coupled.allIdle_of_framers (legal d (by decide)) nmea (ubx ▸ (c_idle d).2)
    · exact coupled.allIdle_of_framers (legal d (by decide)) nmea (ubx ▸ (c_inNmea d).2)
  · have nmea := toUbx.nmea_eq
    obtain ⟨d, u, step, same⟩ := toUbx
    have ubx : t.ubx.state = UState.idle := by
      rw [same] at event ⊢
      exact ubxStep_event_idle (t := u) step event
    obtain d | d := d
    · exact coupled.allIdle_of_framers (legal d (by decide)) (nmea ▸ (c_idle d).1) ubx
    · exact coupled.allIdle_of_framers (legal d (by decide)) (nmea ▸ (c_inUbx d).2) ubx

/-! ### The way back to a buffer -/

/-- A byte met by an idle NMEA framer writes no cell. -/
theorem byteStep_keeps_nbuf (h : byteStep b s = .next t) (idle : s.nmea.state = NState.idle) :
    t.nmea.buf = s.nmea.buf := by
  obtain ⟨⟨same, -⟩ | ⟨v, ⟨state, -⟩ | ⟨state, -⟩, -⟩, -⟩ := byteStep_writes h
  · exact same
  · exact absurd (idle.symm.trans state) (by decide)
  · exact absurd (idle.symm.trans state) (by decide)

/-- A byte met before `PAYLOAD` writes no cell. -/
theorem byteStep_keeps_ubuf (h : byteStep b s = .next t) (early : s.ubx.state.toNat ≤ 5) :
    t.ubx.buf = s.ubx.buf := by
  obtain ⟨-, ⟨same, -⟩ | ⟨payload, -⟩⟩ := byteStep_writes h
  · exact same
  · rw [payload] at early
    exact absurd early (by decide)

/-- Up to the length's high byte the framer takes one state at a time. -/
theorem exec_ubx_next_state (unit : i.unit = .ubx) (h : exec i s = .next t) (early : s.ubx.state.toNat < 5) :
    t.ubx.state.toNat ≤ s.ubx.state.toNat + 1 := by
  have too_late {c : BitVec 4} (code : s.ubx.state = c) (late : ¬c.toNat < 5) : False := late (code ▸ early)
  cases i with
  | uIdleIgnore =>
    obtain ⟨-, rfl⟩ := exec_uIdleIgnore_eq_next.1 h
    exact Nat.le_succ _
  | uIdleSync1 | uSync2Fail =>
    obtain ⟨-, ⟨⟩⟩ := whenSelected_eq_next.1 h
    simp
  | uSync2Ok =>
    obtain ⟨state, rfl⟩ := exec_uSync2Ok_eq_next.1 h
    simp [state]
  | uClass =>
    obtain ⟨state, rfl⟩ := exec_uClass_eq_next.1 h
    simp [state]
  | uId =>
    obtain ⟨state, rfl⟩ := exec_uId_eq_next.1 h
    simp [state]
  | uLenLo =>
    obtain ⟨state, rfl⟩ := exec_uLenLo_eq_next.1 h
    simp [state]
  | uLenHiZero | uLenHiOverflow | uLenHiPayload | uPayloadByte | uPayloadLast | uCksumA | uCksumBMatch
  | uCksumBMismatch | uPayloadZeroCount | uReservedState9 =>
    exact (too_late (ubxCode_of_selects unit (selects_of_exec h)) (by simp [Instr.stateCode])).elim
  | uReservedState10To11 | uReservedState12To15 =>
    obtain ⟨-, ⟨⟩⟩ := whenSelected_eq_next.1 h
  | _ => simp [Instr.unit] at unit

theorem byteStep_next_ubx_state (h : byteStep b s = .next t) (early : s.ubx.state.toNat < 5) :
    t.ubx.state.toNat ≤ s.ubx.state.toNat + 1 := by
  obtain rfl | toNmea | ⟨-, u, step, same⟩ := byteStep_cases h
  · exact Nat.le_succ _
  · rw [toNmea.ubx_eq]
    exact Nat.le_succ _
  · obtain ⟨j, ⟨unit, -, -⟩, row⟩ := selected_row_of_ubxStep step
    rw [same]
    exact exec_ubx_next_state (t := u) unit row early

/-- Bytes that cannot take the framer past `PAYLOAD`'s first byte write no cell of `UBUF`. -/
theorem blockFeed_keeps_ubuf {l : List Byte} {es : List Event} (h : blockFeed l s = some (es, u))
    (short : l = [] ∨ s.ubx.state.toNat + l.length ≤ 6) : u.ubx.buf = s.ubx.buf := by
  induction l generalizing s es with
  | nil =>
    cases h
    rfl
  | cons b l ih =>
    obtain ⟨t, fs, first, rest, rfl⟩ := feedBy_cons_eq_some.1 h
    replace short : s.ubx.state.toNat + (l.length + 1) ≤ 6 := by simpa using short
    have tail : l = [] ∨ t.ubx.state.toNat + l.length ≤ 6 := by
      cases l with
      | nil => exact .inl rfl
      | cons c l =>
        have bound := byteStep_next_ubx_state first (by rw [List.length_cons] at short; omega)
        exact .inr (by omega)
    rw [ih rest tail, byteStep_keeps_ubuf first (by omega)]

/-- One byte after an idle framer leaves `NBUF`. -/
theorem blockFeed_keeps_nbuf {l : List Byte} {es : List Event} (h : blockFeed l s = some (es, u))
    (idle : s.nmea.state = NState.idle) (short : l.length ≤ 1) : u.nmea.buf = s.nmea.buf := by
  match l, short with
  | [], _ =>
    cases h
    rfl
  | [b], _ =>
    obtain ⟨t, fs, first, rest, rfl⟩ := feedBy_cons_eq_some.1 h
    cases rest
    exact byteStep_keeps_nbuf first idle

end

/-- Settles O50: the event left the block idle, and the bytes after it do not reach the buffer again. -/
theorem payloadSurvivesItsLifetime : Obligations.PayloadSurvivesItsLifetime := by
  intro s t u b l es coupled h fed
  refine ⟨fun n p event short => ?_, fun c i n p event short => ?_⟩
  · have reported : t.evt ≠ .none := by rcases event with e | e <;> rw [e] <;> exact nofun
    obtain ⟨-, nmea, -⟩ := byteStep_event_allIdle coupled h reported
    exact blockFeed_keeps_nbuf fed nmea short
  · have reported : t.evt ≠ .none := by rw [event]; exact nofun
    obtain ⟨-, -, ubx⟩ := byteStep_event_allIdle coupled h reported
    refine blockFeed_keeps_ubuf fed (.inr ?_)
    rw [ubx]
    simpa using short

end Sys2Proof.Machine
end

section
/-! PROOF. What lies outside the block (30_encoding.md R83, 43_dispatcher.md §2): a transition neither reads nor changes
the stimuli to come, the last event and what the consumer read. -/

namespace Sys2Proof.Machine

/-- The state with other event outputs, stimuli and consumer reads. -/
def State.withOutside (s : State) (e : Event) (q : List Stimulus) (n u : Option Byte) : State :=
  { s with evt := e, inputs := q, nbRead := n, ubRead := u }

/-- The answer with its own event and other stimuli and consumer reads. -/
def answerWith (q : List Stimulus) (n u : Option Byte) (o : Result) : Result :=
  onNext o fun t => t.withOutside t.evt q n u

section
variable {s : State} {e : Event} {q : List Stimulus} {n u : Option Byte} {b : Byte}

theorem selects_withOutside (i : Instr) : selects i (s.withOutside e q n u) = selects i s :=
  selects_congr rfl rfl rfl rfl

theorem whenSelected_withOutside {i : Instr} {o o' : Result} (body : o' = answerWith q n u o) :
    whenSelected i (s.withOutside e q n u) o' = answerWith q n u (whenSelected i s o) := by
  unfold whenSelected
  rw [selects_withOutside, body]
  split <;> rfl

theorem onDigit_answerWith {f g : Byte → Result} (body : ∀ v, f v = answerWith q n u (g v)) :
    onDigit b f = answerWith q n u (onDigit b g) := by
  unfold onDigit
  cases hexval b with
  | none => rfl
  | some v => exact body _

theorem storeNbuf_withOutside (a : Nat) (v : Byte) :
    storeNbuf (s.withOutside e q n u) a v = onNext (storeNbuf s a v) fun t => t.withOutside e q n u := by
  by_cases exist : a ≤ s.nmeaCap
  · rw [storeNbuf_of_le v exist, storeNbuf_of_le (s := s.withOutside e q n u) v exist]
    rfl
  · have no_cell : ¬a ≤ (s.withOutside e q n u).nmeaCap := exist
    rw [storeNbuf, storeNbuf, if_neg exist, if_neg no_cell]
    rfl

theorem storeUbuf_withOutside (a : Nat) (v : Byte) :
    storeUbuf (s.withOutside e q n u) a v = onNext (storeUbuf s a v) fun t => t.withOutside e q n u := by
  by_cases exist : a < s.ubxCap
  · rw [storeUbuf_of_lt v exist, storeUbuf_of_lt (s := s.withOutside e q n u) v exist]
    rfl
  · have no_cell : ¬a < (s.withOutside e q n u).ubxCap := exist
    rw [storeUbuf, storeUbuf, if_neg exist, if_neg no_cell]
    rfl

/-- Going on from an answer that differs outside only, by an update that gives the event itself. -/
theorem onNext_answerWith {o o' : Result} {f g : State → State}
    (store : o' = onNext o fun t => t.withOutside e q n u)
    (update : ∀ t, f (t.withOutside e q n u) = (g t).withOutside (g t).evt q n u) :
    onNext o' f = answerWith q n u (onNext o g) := by
  subst store
  cases o with
  | next t => exact congrArg Host.Outcome.next (update t)
  | fault _ => rfl
  | refused _ => rfl

theorem finishNmea_withOutside (report : Half → List (Option Byte) → Event) :
    finishNmea b (s.withOutside e q n u) report = answerWith q n u (finishNmea b s report) :=
  onDigit_answerWith fun _ => onNext_answerWith (storeNbuf_withOutside _ _) fun _ => rfl

/-- A framer's row answers the same with other things outside the block. -/
theorem exec_framer_withOutside {i : Instr} (framer : i.unit ≠ .dsp) :
    exec i (s.withOutside e q n u) = answerWith q n u (exec i s) := by
  cases i with
  | nCollectAppend b =>
    exact whenSelected_withOutside (onNext_answerWith (storeNbuf_withOutside _ _) fun _ => rfl)
  | uPayloadByte b | uPayloadLast b =>
    exact whenSelected_withOutside (onNext_answerWith (storeUbuf_withOutside _ _) fun _ => rfl)
  | nHiDigit b => exact whenSelected_withOutside (onDigit_answerWith fun _ => rfl)
  | nLoMatch b | nLoMismatch b => exact whenSelected_withOutside (finishNmea_withOutside _)
  | dIdleNmea | dIdleUbx | dIdleDiscard | dFwdNmea | dFwdUbx | dReservedState => exact absurd rfl framer
  | _ => exact whenSelected_withOutside rfl

theorem Selected.withOutside {v : FramingUnit} {i : Instr} (h : Selected v b s i) :
    Selected v b (s.withOutside e q n u) i := by
  obtain ⟨unit, byte, sel⟩ := h
  exact ⟨unit, byte, (selects_withOutside i).trans sel⟩

theorem nmeaStep_withOutside : nmeaStep b (s.withOutside e q n u) = answerWith q n u (nmeaStep b s) := by
  obtain ⟨i, selected, run⟩ := nmeaStep_runs b s
  rw [run, nmeaStep_of_selected selected.withOutside]
  exact exec_framer_withOutside (by rw [selected.1]; decide)

theorem ubxStep_withOutside : ubxStep b (s.withOutside e q n u) = answerWith q n u (ubxStep b s) := by
  obtain ⟨i, selected, run⟩ := ubxStep_runs b s
  rw [run, ubxStep_of_selected selected.withOutside]
  exact exec_framer_withOutside (by rw [selected.1]; decide)

/-- What the dispatcher makes of a framer's answer. -/
theorem onNext_of_answerWith {o : Result} {f : State → State}
    (update : ∀ t, f (t.withOutside t.evt q n u) = (f t).withOutside (f t).evt q n u) :
    onNext (answerWith q n u o) f = answerWith q n u (onNext o f) := by
  cases o with
  | next t => exact congrArg Host.Outcome.next (update t)
  | fault _ => rfl
  | refused _ => rfl

theorem followNmea_withOutside (t : State) :
    followNmea (t.withOutside t.evt q n u) = (followNmea t).withOutside (followNmea t).evt q n u := by
  by_cases idle : t.nmea.state = NState.idle
  · rw [followNmea_of_idle idle, followNmea_of_idle (t := t.withOutside t.evt q n u) idle]
    rfl
  · rw [followNmea_of_not_idle idle, followNmea_of_not_idle (t := t.withOutside t.evt q n u) idle]

theorem followUbx_withOutside (t : State) :
    followUbx (t.withOutside t.evt q n u) = (followUbx t).withOutside (followUbx t).evt q n u := by
  by_cases idle : t.ubx.state = UState.idle
  · rw [followUbx_of_idle idle, followUbx_of_idle (t := t.withOutside t.evt q n u) idle]
    rfl
  · rw [followUbx_of_not_idle idle, followUbx_of_not_idle (t := t.withOutside t.evt q n u) idle]

theorem exec_dsp_withOutside {i : Instr} (unit : i.unit = .dsp) :
    exec i (s.withOutside e q n u) = answerWith q n u (exec i s) := by
  cases i with
  | dIdleNmea =>
    refine whenSelected_withOutside ?_
    rw [nmeaStep_withOutside, onNext_of_answerWith fun _ => rfl]
  | dIdleUbx =>
    refine whenSelected_withOutside ?_
    rw [ubxStep_withOutside, onNext_of_answerWith fun _ => rfl]
  | dFwdNmea b =>
    refine whenSelected_withOutside ?_
    rw [nmeaStep_withOutside, onNext_of_answerWith followNmea_withOutside]
  | dFwdUbx b =>
    refine whenSelected_withOutside ?_
    rw [ubxStep_withOutside, onNext_of_answerWith followUbx_withOutside]
  | dIdleDiscard | dReservedState => exact whenSelected_withOutside rfl
  | _ => simp [Instr.unit] at unit

/-- The block's answer to a byte does not depend on what lies outside it, and leaves that alone but for the event. -/
theorem byteStep_withOutside : byteStep b (s.withOutside e q n u) = answerWith q n u (byteStep b s) := by
  obtain ⟨i, selected, run⟩ := byteStep_runs b s
  obtain ⟨j, other, run'⟩ := byteStep_runs b (s.withOutside e q n u)
  rw [run, run', selected.withOutside.unique other]
  exact exec_dsp_withOutside selected.1

end

/-! ### States that differ outside the block only -/

/-- The two states have the same registers, cells and capacities. -/
structure SameBlock (s t : State) : Prop where
  cfg_eq : s.cfg = t.cfg
  dState_eq : s.dState = t.dState
  nmea_eq : s.nmea = t.nmea
  ubx_eq : s.ubx = t.ubx

section
variable {s t s' u : State} {b : Byte}

theorem SameBlock.refl (s : State) : SameBlock s s := ⟨rfl, rfl, rfl, rfl⟩

theorem SameBlock.trans (h : SameBlock s t) (h' : SameBlock t u) : SameBlock s u :=
  ⟨h.cfg_eq.trans h'.cfg_eq, h.dState_eq.trans h'.dState_eq, h.nmea_eq.trans h'.nmea_eq,
    h.ubx_eq.trans h'.ubx_eq⟩

theorem SameBlock.symm (h : SameBlock s t) : SameBlock t s :=
  ⟨h.cfg_eq.symm, h.dState_eq.symm, h.nmea_eq.symm, h.ubx_eq.symm⟩

theorem SameBlock.eq_withOutside (h : SameBlock s t) : t = s.withOutside t.evt t.inputs t.nbRead t.ubRead := by
  obtain ⟨cfg, d, nmea, ubx⟩ := h
  rw [State.withOutside, cfg, d, nmea, ubx]

theorem sameBlock_withOutside (s : State) (e : Event) (q : List Stimulus) (n u : Option Byte) :
    SameBlock s (s.withOutside e q n u) := ⟨rfl, rfl, rfl, rfl⟩

/-- The same byte gives the same block and the same event. -/
theorem SameBlock.byteStep (same : SameBlock s s') (h : byteStep b s = .next t) :
    byteStep b s' = .next (t.withOutside t.evt s'.inputs s'.nbRead s'.ubRead) := by
  rw [same.eq_withOutside, byteStep_withOutside, h]
  rfl

/-- The same bytes give the same block and the same events; stimuli and consumer reads stay as they were. -/
theorem SameBlock.blockFeed {l : List Byte} {es : List Event} (same : SameBlock s s')
    (h : blockFeed l s = some (es, t)) : ∃ t', blockFeed l s' = some (es, t') ∧ SameBlock t t' ∧
      t'.inputs = s'.inputs ∧ t'.nbRead = s'.nbRead ∧ t'.ubRead = s'.ubRead := by
  induction l generalizing s s' es with
  | nil =>
    cases h
    exact ⟨s', rfl, same, rfl, rfl, rfl⟩
  | cons b l ih =>
    obtain ⟨u, fs, first, rest, rfl⟩ := feedBy_cons_eq_some.1 h
    have first' := same.byteStep first
    obtain ⟨t', rest', outside⟩ := ih (sameBlock_withOutside u _ _ _ _) rest
    exact ⟨t', feedBy_cons_eq_some.2 ⟨_, fs, first', rest', rfl⟩, outside⟩

end

end Sys2Proof.Machine
end

section
/-! PROOF. Runs over stimuli (43_dispatcher.md §2 and §3, 20_memory.md §3 and §7): the host's run over byte cycles is
feeding their bytes, and in an observed run cycles without a byte and consumer reads change neither events nor state. -/

namespace Sys2Proof.Machine

/-! ### The host's run -/

theorem run_of_step {M : Host.Core} {n : Nat} {s t : M.State} (h : M.step s = .next t) :
    M.run (n + 1) s = M.run n t := by
  simp [Host.Core.run, h]

section
variable {s t : State} {b : Byte} {l : List Byte} {es : List Event}

/-- A byte leaves the stimuli and the consumer's reads alone. -/
theorem byteStep_outside (h : byteStep b s = .next t) : t = t.withOutside t.evt s.inputs s.nbRead s.ubRead := by
  have again := (SameBlock.refl s).byteStep h
  exact Host.Outcome.next.inj (h.symm.trans again)

/-- Each cycle steps as its byte does, and the stimuli still to come do not matter to it. -/
theorem run_of_blockFeed (queue : s.inputs = byteCycles l) (fed : blockFeed l (s.setInputs []) = some (es, t)) :
    Host.Core.run core l.length s = .next t := by
  induction l generalizing s es with
  | nil =>
    cases fed
    exact congrArg Host.Outcome.next (congrArg s.setInputs queue)
  | cons b l ih =>
    obtain ⟨u, fs, first, rest, rfl⟩ := feedBy_cons_eq_some.1 fed
    have same : SameBlock (s.setInputs []) (s.setInputs (byteCycles l)) := ⟨rfl, rfl, rfl, rfl⟩
    have stepped := (step_cycle queue).trans (same.byteStep first)
    refine (run_of_step (M := core) stepped).trans (ih rfl (es := fs) ?_)
    have back : (u.withOutside u.evt (byteCycles l) s.nbRead s.ubRead).setInputs [] = u :=
      (byteStep_outside first).symm
    exact (congrArg (blockFeed l) back).trans rest

end

/-- Settles O59, by induction on the bytes. -/
theorem runOfCyclesIsFeeding : Obligations.RunOfCyclesIsFeeding := fun _ _ _ _ queue fed => run_of_blockFeed queue fed

/-! ### What a read saw -/

/-- The read stands at a boundary from `k` on, and its value is the cell's after the bytes of `l` up to there. -/
def SawCell (l : List Byte) (k : Nat) (s : State) (r : BufferRead) : Prop :=
  k ≤ r.boundary ∧ ∃ es u, blockFeed (l.take (r.boundary - k)) s = some (es, u) ∧ u.cell r.buffer r.index = some r.value

section
variable {s t : State} {b : Byte} {l : List Byte} {k : Nat} {r : BufferRead}

theorem SameBlock.cell_eq (same : SameBlock s t) (buffer : Buffer) (a : Nat) : s.cell buffer a = t.cell buffer a := by
  cases buffer with
  | nbuf => rw [State.cell, State.cell, same.nmea_eq]
  | ubuf => rw [State.cell, State.cell, same.ubx_eq]

theorem SawCell.congr (h : SawCell l k t r) (same : SameBlock t s) : SawCell l k s r := by
  obtain ⟨le, es, u, fed, cell⟩ := h
  obtain ⟨u', fed', same', -⟩ := same.blockFeed fed
  exact ⟨le, es, u', fed', (same'.cell_eq _ _).symm.trans cell⟩

theorem SawCell.before_byte (first : byteStep b s = .next t) (h : SawCell l (k + 1) t r) : SawCell (b :: l) k s r := by
  obtain ⟨le, es, u, fed, cell⟩ := h
  obtain ⟨m, step⟩ : ∃ m, r.boundary - k = m + 1 := ⟨r.boundary - (k + 1), by omega⟩
  have rest : r.boundary - (k + 1) = m := by omega
  rw [rest] at fed
  refine ⟨by omega, t.evt :: es, u, ?_, cell⟩
  rw [step, List.take_succ_cons]
  exact feedBy_cons_eq_some.2 ⟨t, es, first, fed, rfl⟩

theorem sawCell_now {buffer : Buffer} {a : Nat} {v : Byte} (cell : s.cell buffer a = some v) :
    SawCell l k s ⟨k, buffer, a, v⟩ := by
  refine ⟨le_rfl, [], s, ?_, cell⟩
  simp [blockFeed]

end

/-! ### The account of an observed run -/

/-- From the observation `o` on, the stimuli `l` lead to `o'`: the bytes, events, state and reads that `o'` has more
are those of feeding the bytes of `l` alone. -/
structure Accounts (o : Observation) (l : List Stimulus) (o' : Observation) : Prop where
  bytes : o'.bytes = o.bytes + (bytesOf l).length
  events : ∃ es t, blockFeed (bytesOf l) o.final = some (es, t) ∧
    o'.events = o.events ++ observation (o.bytes + 1) es ∧ SameBlock t o'.final
  reads : ∃ rs, o'.reads = o.reads ++ rs ∧
    (rs.map fun r => (r.boundary, r.buffer, r.index)) = readsAsked o.bytes l ∧
    ∀ r ∈ rs, SawCell (bytesOf l) o.bytes o.final r

section
variable {o o' : Observation} {l : List Stimulus} {t u : State} {b : Byte}

theorem accounts_nil : Accounts o [] o where
  bytes := rfl
  events := ⟨[], o.final, rfl, by simp, SameBlock.refl _⟩
  reads := ⟨[], by simp, rfl, by simp⟩

/-- A byte is one byte more, with its event. -/
theorem Accounts.before_byte (first : byteStep b o.final = .next u) (same : SameBlock t u) (evt : u.evt = t.evt)
    (rest : Accounts (o.afterByte t) l o') : Accounts o (.cycle false true b :: l) o' := by
  obtain ⟨bytes, ⟨es, v, fed, events, same_v⟩, ⟨rs, reads, asked, saw⟩⟩ := rest
  obtain ⟨v', fed', same_v', -⟩ := same.blockFeed fed
  refine ⟨?_, ⟨u.evt :: es, v', feedBy_cons_eq_some.2 ⟨u, es, first, fed', rfl⟩, ?_, same_v'.symm.trans same_v⟩,
    ⟨rs, reads, asked, fun r mem => ((saw r mem).congr same).before_byte first⟩⟩
  · rw [bytes]
    simp only [Observation.afterByte, bytesOf_byte, List.length_cons]
    omega
  · rw [events, evt]
    simp only [Observation.afterByte, observation]
    split <;> simp

/-- A cycle without a byte changes nothing that is accounted for. -/
theorem Accounts.before_hold (same : SameBlock t o.final) (rest : Accounts { o with final := t } l o') :
    Accounts o (.cycle false false b :: l) o' := by
  obtain ⟨bytes, ⟨es, v, fed, events, same_v⟩, ⟨rs, reads, asked, saw⟩⟩ := rest
  obtain ⟨v', fed', same_v', -⟩ := same.blockFeed fed
  exact ⟨bytes, ⟨es, v', fed', events, same_v'.symm.trans same_v⟩,
    ⟨rs, reads, asked, fun r mem => (saw r mem).congr same⟩⟩

/-- A consumer read is one read more, with the value its cell has there. -/
theorem Accounts.before_read {x : Stimulus} {buffer : Buffer} {a : Half} {v : Byte}
    (no_byte : bytesOf (x :: l) = bytesOf l)
    (asks : readsAsked o.bytes (x :: l) = (o.bytes, buffer, a.toNat) :: readsAsked o.bytes l)
    (same : SameBlock t o.final) (cell : o.final.cell buffer a.toNat = some v)
    (rest : Accounts (o.afterRead buffer a (some v) t) l o') : Accounts o (x :: l) o' := by
  obtain ⟨bytes, ⟨es, w, fed, events, same_w⟩, ⟨rs, reads, asked, saw⟩⟩ := rest
  obtain ⟨w', fed', same_w', -⟩ := same.blockFeed fed
  refine ⟨by rwa [no_byte], ⟨es, w', by rwa [no_byte], events, same_w'.symm.trans same_w⟩,
    ⟨⟨o.bytes, buffer, a.toNat, v⟩ :: rs, ?_, ?_, ?_⟩⟩
  · simpa [Observation.afterRead] using reads
  · rw [asks, List.map_cons, asked]
    rfl
  · rw [no_byte]
    rintro r (_ | ⟨_, mem⟩)
    · exact sawCell_now cell
    · exact (saw r mem).congr same

end

/-! ### Observing -/

section
variable {o o' : Observation} {l : List Stimulus}

/-- The run over the stimuli the state holds, stimulus by stimulus. -/
theorem accounts_of_observeSteps (queue : o.final.inputs = l) (no_reset : ∀ x ∈ l, x.isReset = false)
    (h : observeSteps l.length o = some o') : Accounts o l o' ∧ o'.final.inputs = [] := by
  induction l generalizing o with
  | nil =>
    cases h
    exact ⟨accounts_nil, queue⟩
  | cons x l ih =>
    obtain ⟨not_reset, no_reset⟩ := List.forall_mem_cons.1 no_reset
    obtain ⟨t, stepped, rest⟩ := observeSteps_succ_eq_some.1 h
    rw [queue, List.head?_cons] at rest
    have go_on (inputs : t.inputs = l) : Accounts (o.after (some x) t) l o' ∧ o'.final.inputs = [] :=
      ih (by rwa [observation_after_final]) no_reset rest
    cases x with
    | cycle r v b =>
      rw [step_cycle queue] at stepped
      cases r with
      | true => cases not_reset
      | false =>
        cases v with
        | true =>
          have same : SameBlock (o.final.setInputs l) o.final := ⟨rfl, rfl, rfl, rfl⟩
          have inputs : t.inputs = l := congrArg State.inputs (byteStep_outside stepped)
          obtain ⟨accounts, ended⟩ := go_on inputs
          exact ⟨accounts.before_byte (same.byteStep stepped) (sameBlock_withOutside t _ _ _ _) rfl, ended⟩
        | false =>
          cases stepped
          obtain ⟨accounts, ended⟩ := go_on rfl
          exact ⟨accounts.before_hold (t := holdCycle (o.final.setInputs l)) ⟨rfl, rfl, rfl, rfl⟩, ended⟩
    | readNbuf a =>
      rw [step_readNbuf queue] at stepped
      obtain ⟨-, -, v, cell, rfl⟩ := readNbuf_eq_next.1 stepped
      obtain ⟨accounts, ended⟩ := go_on rfl
      exact ⟨accounts.before_read (t := (o.final.setInputs l).setNbRead v) rfl rfl ⟨rfl, rfl, rfl, rfl⟩ cell, ended⟩
    | readUbuf a =>
      rw [step_readUbuf queue] at stepped
      obtain ⟨-, -, v, cell, rfl⟩ := readUbuf_eq_next.1 stepped
      obtain ⟨accounts, ended⟩ := go_on rfl
      exact ⟨accounts.before_read (t := (o.final.setInputs l).setUbRead v) rfl rfl ⟨rfl, rfl, rfl, rfl⟩ cell, ended⟩

/-- A run of cycles alone is observed if its bytes are answered. -/
theorem observeSteps_isSome (queue : o.final.inputs = l) (no_reset : ∀ x ∈ l, x.isReset = false)
    (no_read : ∀ x ∈ l, x.isRead = false) {es : List Event} {u : State}
    (fed : blockFeed (bytesOf l) o.final = some (es, u)) : (observeSteps l.length o).isSome = true := by
  induction l generalizing o es u with
  | nil => rfl
  | cons x l ih =>
    obtain ⟨not_reset, no_reset⟩ := List.forall_mem_cons.1 no_reset
    obtain ⟨not_read, no_read⟩ := List.forall_mem_cons.1 no_read
    have go_on {t : State} (stepped : step o.final = .next t) (inputs : t.inputs = l) {fs : List Event} {v : State}
        (rest : blockFeed (bytesOf l) t = some (fs, v)) : (observeSteps (l.length + 1) o).isSome = true := by
      rw [observeSteps_of_next stepped]
      exact ih (by rwa [observation_after_final]) no_reset no_read (by rwa [observation_after_final])
    cases x with
    | cycle r v b =>
      cases r with
      | true => cases not_reset
      | false =>
        cases v with
        | true =>
          obtain ⟨t, fs, first, rest, rfl⟩ := feedBy_cons_eq_some.1 fed
          have same : SameBlock o.final (o.final.setInputs l) := ⟨rfl, rfl, rfl, rfl⟩
          obtain ⟨v', rest', -⟩ := (sameBlock_withOutside t t.evt l o.final.nbRead o.final.ubRead).blockFeed rest
          exact go_on ((step_cycle queue).trans (same.byteStep first)) rfl rest'
        | false =>
          have same : SameBlock o.final (holdCycle (o.final.setInputs l)) := ⟨rfl, rfl, rfl, rfl⟩
          obtain ⟨v', rest', -⟩ := same.blockFeed fed
          exact go_on ((step_cycle queue).trans (cycleStep_hold b _)) rfl rest'
    | readNbuf a => cases not_read
    | readUbuf a => cases not_read

end

/-- Settles O58: the account of the whole run, from nothing observed, and the same block without its stimuli. -/
theorem idleCyclesAndReadsAreTransparent : Obligations.IdleCyclesAndReadsAreTransparent := by
  intro s no_reset
  have same : SameBlock s (s.setInputs []) := ⟨rfl, rfl, rfl, rfl⟩
  refine ⟨fun o h => ?_, fun no_read answered => ?_⟩
  · obtain ⟨⟨bytes, ⟨es, t, fed, events, same_t⟩, ⟨rs, reads, asked, saw⟩⟩, ended⟩ :=
      accounts_of_observeSteps (o := .start s) rfl no_reset h
    obtain ⟨t', fed', same_t', no_inputs, -⟩ := same.blockFeed fed
    have final := (same_t'.symm.trans same_t).eq_withOutside
    have no_stimuli : t'.inputs = [] := no_inputs
    have only_rs : o.reads = rs := reads
    refine ⟨bytes.trans (Nat.zero_add _), ⟨es, t', fed', events, ?_⟩, by rw [only_rs]; exact asked, fun r mem => ?_⟩
    · rw [ended, ← no_stimuli] at final
      exact final
    · obtain ⟨-, fs, u, before, cell⟩ := (saw r (only_rs ▸ mem)).congr same
      exact ⟨fs, u, before, cell⟩
  · obtain ⟨⟨es, t⟩, fed⟩ := Option.isSome_iff_exists.1 answered
    obtain ⟨t', fed', -⟩ := same.symm.blockFeed fed
    exact observeSteps_isSome (o := .start s) rfl no_reset no_read fed'

end Sys2Proof.Machine
end

section
/-! PROOF. The UBX framer through a whole frame (42_ubx_framer.md R167) and the block through a frame of either protocol
(43_dispatcher.md §1): inside a frame the block does what the framer alone does, so each stretch of a frame is fed once
for both. -/

namespace Sys2Proof.Machine

/-! ### Doing what a framer does -/

/-- Where `P` holds, `f` does what the framer's `step` does as long as the framer stays `busy`. -/
def Follows (step f : Byte → State → Result) (busy P : State → Prop) : Prop :=
  ∀ {b : Byte} {s t : State}, P s → step b s = .next t → busy t → f b s = .next t ∧ P t

/-- The NMEA framer is inside a frame. -/
def NmeaBusy (t : State) : Prop := t.nmea.state ≠ NState.idle

/-- The UBX framer is inside a frame. -/
def UbxBusy (t : State) : Prop := t.ubx.state ≠ UState.idle

/-- A framer used alone. -/
def Alone (_ : State) : Prop := True

/-- The dispatcher forwards to the NMEA framer. -/
def InNmea (s : State) : Prop := s.dState = DState.inNmea ∧ s.ubx.state = UState.idle

/-- The dispatcher forwards to the UBX framer. -/
def InUbx (s : State) : Prop := s.dState = DState.inUbx ∧ s.nmea.state = NState.idle

theorem ubxBusy_of_code {t : State} {code : BitVec 4} (state : t.ubx.state = code) (inside : code ≠ UState.idle) :
    UbxBusy t := by
  rwa [UbxBusy, state]

theorem ubxStep_follows_itself : Follows ubxStep ubxStep UbxBusy Alone := fun _ step _ => ⟨step, trivial⟩

theorem byteStep_follows_nmeaStep : Follows nmeaStep byteStep NmeaBusy InNmea := by
  rintro b s t ⟨fwd, ubx⟩ step busy
  refine ⟨?_, (dState_of_nmeaStep step).trans fwd, by rwa [ubx_of_nmeaStep step]⟩
  rw [byteStep_of_inNmea b fwd, exec_dFwdNmea fwd step, followNmea_of_not_idle busy]

theorem byteStep_follows_ubxStep : Follows ubxStep byteStep UbxBusy InUbx := by
  rintro b s t ⟨fwd, nmea⟩ step busy
  refine ⟨?_, (dState_of_ubxStep step).trans fwd, by rwa [nmea_of_ubxStep step]⟩
  rw [byteStep_of_inUbx b fwd, exec_dFwdUbx fwd step, followUbx_of_not_idle busy]

section
variable {s t : State} {b : Byte}

/-- With the framer the dispatcher returns to `IDLE` (R193). -/
theorem byteStep_ends_nmea (h : InNmea s) (step : nmeaStep b s = .next t) (done : t.nmea.state = NState.idle) :
    byteStep b s = .next (t.gotoD DState.idle) ∧ AllIdle (t.gotoD DState.idle) := by
  obtain ⟨fwd, ubx⟩ := h
  refine ⟨?_, rfl, done, ?_⟩
  · rw [byteStep_of_inNmea b fwd, exec_dFwdNmea fwd step, followNmea_of_idle done]
  · rwa [State.gotoD_ubx, ubx_of_nmeaStep step]

/-- With the framer the dispatcher returns to `IDLE` (R194). -/
theorem byteStep_ends_ubx (h : InUbx s) (step : ubxStep b s = .next t) (done : t.ubx.state = UState.idle) :
    byteStep b s = .next (t.gotoD DState.idle) ∧ AllIdle (t.gotoD DState.idle) := by
  obtain ⟨fwd, nmea⟩ := h
  refine ⟨?_, rfl, ?_, done⟩
  · rw [byteStep_of_inUbx b fwd, exec_dFwdUbx fwd step, followUbx_of_idle done]
  · rwa [State.gotoD_nmea, nmea_of_ubxStep step]

end

/-! ### An NMEA frame through the block -/

section
variable {cfg : Config} {p : List Byte} {c : BitVec 2} {s : State} {b : Byte}

theorem InFrame.busy (h : InFrame cfg p c s) (inside : c ≠ NState.idle) : NmeaBusy s := by
  rwa [NmeaBusy, h.state_eq]

/-- The block feeds the payload as the framer does. -/
theorem InFrame.blockFeed_payload {q : List Byte} (h : InFrame cfg p NState.collect s) (fwd : InNmea s)
    (no_star : star ∉ q) (room : p.length + q.length ≤ cfg.nmeaCap.val) :
    ∃ t, FeedsQuietly byteStep q s t ∧ InFrame cfg (p ++ q) NState.collect t ∧ InNmea t := by
  induction q generalizing p s with
  | nil => exact ⟨s, feedsQuietly_nil, by simpa using h, fwd⟩
  | cons b q ih =>
    obtain ⟨not_star, no_star⟩ := List.ne_and_not_mem_of_not_mem_cons no_star
    rw [List.length_cons] at room
    obtain ⟨u, step, quiet, hu⟩ := h.step_payload (Ne.symm not_star) (by omega)
    obtain ⟨first, fwd_u⟩ := byteStep_follows_nmeaStep fwd step (hu.busy (by decide))
    obtain ⟨t, rest, ht, fwd_t⟩ := ih hu fwd_u no_star (by rw [List.length_append, List.length_singleton]; omega)
    exact ⟨t, feedsQuietly_cons first quiet rest, by simpa using ht, fwd_t⟩

/-- A frame's `'$'` through the idle block. -/
theorem openedNmea_inFrame (idle : AllIdle s) :
    InFrame s.cfg [] NState.collect (openedNmea s) ∧ InNmea (openedNmea s) := by
  obtain ⟨-, -, ubx⟩ := idle
  exact ⟨⟨rfl, rfl, rfl, rfl, rfl, Nat.zero_le _⟩, rfl, ubx⟩

/-- All of a frame but its last digit. -/
theorem blockFeed_to_last_digit {h1 : Byte} {v : BitVec 4} (idle : AllIdle s) (no_star : star ∉ p)
    (room : p.length ≤ s.cfg.nmeaCap.val) (digit : hexval h1 = some v) :
    ∃ t, FeedsQuietly byteStep (dollar :: p ++ [star] ++ [h1]) s t ∧ InFrame s.cfg p NState.cksumLo t ∧
      t.nmea.exp = v ++ 0#4 ∧ InNmea t := by
  obtain ⟨frame, fwd⟩ := openedNmea_inFrame idle
  obtain ⟨t1, body, h1', fwd1⟩ := frame.blockFeed_payload fwd no_star (by simpa using room)
  obtain ⟨t2, stop, quiet2, h2⟩ := h1'.step_star
  obtain ⟨stop, fwd2⟩ := byteStep_follows_nmeaStep fwd1 stop (h2.busy (by decide))
  obtain ⟨t3, first, quiet3, h3, high⟩ := h2.step_high_digit digit
  obtain ⟨first, fwd3⟩ := byteStep_follows_nmeaStep fwd2 first (h3.busy (by decide))
  have opened := feedsQuietly_cons (byteStep_dollar_of_allIdle idle) rfl body
  have fed := (opened.append (feedsQuietly_single stop quiet2)).append (feedsQuietly_single first quiet3)
  exact ⟨t3, fed, by simpa using h3, high, fwd3⟩

/-- A valid NMEA frame that fits is delivered on its last byte. -/
theorem blockFeed_nmea_frame {h1 h2 : Byte} {v1 v2 : BitVec 4} (idle : AllIdle s) (no_star : star ∉ p)
    (room : p.length ≤ s.cfg.nmeaCap.val) (digit1 : hexval h1 = some v1) (digit2 : hexval h2 = some v2)
    (valid : v1 ++ v2 = nck p) :
    ∃ t, blockFeed (nmeaWire p h1 h2) s = some (List.replicate (p.length + 3) Event.none ++
        [.nmeaFrame (BitVec.ofNat 16 p.length) (p.map some)], t) ∧ AllIdle t := by
  obtain ⟨u, body, hu, high, fwd⟩ := blockFeed_to_last_digit idle no_star room digit1
  have step := hu.step_low_digit high digit2
  rw [if_pos valid] at step
  obtain ⟨last, idle_after⟩ := byteStep_ends_nmea fwd step rfl
  have fed := body.then_byte last
  exact ⟨_, by simpa [blockFeed, nmeaWire, Nat.add_assoc] using fed, idle_after⟩

end

/-! ### The header of a UBX frame -/

section
variable {s t : State} {i : Instr}

theorem ubxStep_of_row (unit : i.unit = .ubx) (row : exec i s = .next t) : ubxStep i.byte s = .next t :=
  (ubxStep_of_selected ⟨unit, rfl, selects_of_exec row⟩).trans row

/-- The states in which R152, R154, R155 and R156 leave the block. -/
def syncTaken (s : State) : State :=
  (s.setUbx { s.ubx with ckA := 0#8, ckB := 0#8, state := UState.cls }).emit .none

def clsTaken (s : State) (b : Byte) : State :=
  (s.setUbx { s.ubx.absorb b with cls := b, state := UState.id }).emit .none

def idTaken (s : State) (b : Byte) : State :=
  (s.setUbx { s.ubx.absorb b with id := b, state := UState.lenLo }).emit .none

def lenLoTaken (s : State) (b : Byte) : State :=
  (s.setUbx { s.ubx.absorb b with len := b.setWidth 16, state := UState.lenHi }).emit .none

/-- The state after the second sync byte, class, id and the length's low byte. -/
def headerTaken (s : State) (c k lo : Byte) : State := lenLoTaken (idTaken (clsTaken (syncTaken s) c) k) lo

theorem headerTaken_cfg (s : State) (c k lo : Byte) : (headerTaken s c k lo).cfg = s.cfg := by
  simp [headerTaken, lenLoTaken, idTaken, clsTaken, syncTaken]

theorem headerTaken_cls (s : State) (c k lo : Byte) : (headerTaken s c k lo).ubx.cls = c := by
  simp [headerTaken, lenLoTaken, idTaken, clsTaken, UbxFramer.absorb]

theorem headerTaken_id (s : State) (c k lo : Byte) : (headerTaken s c k lo).ubx.id = k := by
  simp [headerTaken, lenLoTaken, idTaken, UbxFramer.absorb]

theorem headerTaken_tookIn (s : State) (c k lo : Byte) : (headerTaken s c k lo).ubx.TookIn [] := by
  have cleared : ((syncTaken s).ubx.ckA, (syncTaken s).ubx.ckB) = uck [] := rfl
  have cls : ((clsTaken (syncTaken s) c).ubx.ckA, (clsTaken (syncTaken s) c).ubx.ckB) = uck [c] :=
    absorb_sums cleared c
  refine (tookIn_iff_of_lenHi rfl).2 ⟨rfl, ?_⟩
  rw [headerTaken, lenLoTaken, State.emit_ubx, State.setUbx_ubx, low_byte_of_setWidth]
  exact absorb_sums (absorb_sums cls k) lo

/-- The assembled length is the one the two bytes were taken from. -/
theorem lenWith_headerTaken (s : State) (c k : Byte) (n : Half) :
    lenWith (headerTaken s c k (n.extractLsb' 0 8)) (n.extractLsb' 8 8) = n := by
  show n.extractLsb' 8 8 ++ ((n.extractLsb' 0 8).setWidth 16 : Half).extractLsb' 0 8 = n
  rw [low_byte_of_setWidth]
  exact BitVec.extractLsb'_append_extractLsb'_eq_extractLsb' rfl |>.trans (BitVec.extractLsb'_eq_self)

variable {f : Byte → State → Result} {P : State → Prop}

/-- One quiet byte inside a frame. -/
theorem Follows.feed_row (follows : Follows ubxStep f UbxBusy P) (here : P s) (unit : i.unit = .ubx)
    (row : exec i s = .next t) (busy : UbxBusy t) (quiet : t.evt = .none) :
    FeedsQuietly f [i.byte] s t ∧ P t := by
  obtain ⟨first, there⟩ := follows here (ubxStep_of_row unit row) busy
  exact ⟨feedsQuietly_single first quiet, there⟩

theorem Follows.feed_header (follows : Follows ubxStep f UbxBusy P) (here : P s)
    (second : s.ubx.state = UState.sync2) (c k lo : Byte) :
    FeedsQuietly f [sync2, c, k, lo] s (headerTaken s c k lo) ∧ P (headerTaken s c k lo) := by
  obtain ⟨feed1, here1⟩ := follows.feed_row (t := syncTaken s) here rfl (exec_uSync2Ok_eq_next.2 ⟨second, rfl⟩)
    (ubxBusy_of_code (code := UState.cls) rfl (by decide)) rfl
  obtain ⟨feed2, here2⟩ := follows.feed_row (t := clsTaken _ c) here1 rfl (exec_uClass_eq_next.2 ⟨rfl, rfl⟩)
    (ubxBusy_of_code (code := UState.id) rfl (by decide)) rfl
  obtain ⟨feed3, here3⟩ := follows.feed_row (t := idTaken _ k) here2 rfl (exec_uId_eq_next.2 ⟨rfl, rfl⟩)
    (ubxBusy_of_code (code := UState.lenLo) rfl (by decide)) rfl
  obtain ⟨feed4, here4⟩ := follows.feed_row (t := lenLoTaken _ lo) here3 rfl (exec_uLenLo_eq_next.2 ⟨rfl, rfl⟩)
    (ubxBusy_of_code (code := UState.lenHi) rfl (by decide)) rfl
  exact ⟨((feed1.append feed2).append feed3).append feed4, here4⟩

end

/-! ### The body of a UBX frame -/

/-- The framer is past the header of a frame with class `c`, id `k` and declared length `n`, and took in `p` of its
payload. -/
structure InBody (cfg : Config) (c k : Byte) (n : Half) (p : List Byte) (s : State) : Prop where
  cfg_eq : s.cfg = cfg
  cls_eq : s.ubx.cls = c
  id_eq : s.ubx.id = k
  len_eq : s.ubx.len = n
  took : s.ubx.TookIn p
  state_eq : s.ubx.state = if p.length < n.toNat then UState.payload else UState.cksumA
  count : p.length < n.toNat → p.length + s.ubx.cnt.toNat = n.toNat

section
variable {cfg : Config} {c k : Byte} {n : Half} {p : List Byte} {s : State}

theorem InBody.busy (h : InBody cfg c k n p s) : UbxBusy s := by
  rw [UbxBusy, h.state_eq]
  split <;> decide

theorem InBody.state_of_more (h : InBody cfg c k n p s) (more : p.length < n.toNat) :
    s.ubx.state = UState.payload := by
  rw [h.state_eq, if_pos more]

theorem InBody.state_of_full (h : InBody cfg c k n p s) (full : p.length = n.toNat) :
    s.ubx.state = UState.cksumA := by
  rw [h.state_eq, if_neg full.not_lt]

/-- A declared length that fits opens the body: with `CKSUM_A` when it is 0 (R157), else with `PAYLOAD` (R159). -/
theorem ubxStep_opens_body {b : Byte} (lenHi : s.ubx.state = UState.lenHi) (len : lenWith s b = n)
    (took : s.ubx.TookIn []) (fits : n.toNat ≤ s.ubxCap) :
    ∃ t, ubxStep b s = .next t ∧ t.evt = .none ∧ InBody s.cfg s.ubx.cls s.ubx.id n [] t := by
  have not_payload (payload : s.ubx.state = UState.payload) : s.ubx.cnt.toNat ≤ s.ubx.len.toNat :=
    absurd (lenHi.symm.trans payload) (by decide)
  by_cases zero : n = 0#16
  · have row := (exec_uLenHiZero_eq_next (b := b)).2 ⟨⟨lenHi, len.trans zero⟩, rfl⟩
    have none_left : ¬([] : List Byte).length < n.toNat := by simp [zero]
    have past : 2 ≤ UState.cksumA.toNat := by decide
    refine ⟨_, ubxStep_of_row rfl row, rfl, rfl, rfl, rfl, len,
      exec_ubx_tookIn rfl row not_payload (fun _ => took) past, ?_, fun more => absurd more none_left⟩
    rw [if_neg none_left]
    rfl
  · have positive : ([] : List Byte).length < n.toNat := by
      rw [List.length_nil]
      bv_omega
    have row := (exec_uLenHiPayload_eq_next (b := b)).2 ⟨⟨lenHi, by rwa [len], by rwa [len]⟩, rfl⟩
    have past : 2 ≤ UState.payload.toNat := by decide
    refine ⟨_, ubxStep_of_row rfl row, rfl, rfl, rfl, rfl, len,
      exec_ubx_tookIn rfl row not_payload (fun _ => took) past, ?_, fun _ => ?_⟩
    · rw [if_pos positive]
      rfl
    · exact (Nat.zero_add _).trans (congrArg BitVec.toNat len)

/-- A payload byte that is still to come is stored and counted (R160, R161). -/
theorem InBody.step_payload (h : InBody cfg c k n p s) (fits : n.toNat ≤ cfg.ubxCap.val) (more : p.length < n.toNat)
    (b : Byte) : ∃ t, ubxStep b s = .next t ∧ t.evt = .none ∧ InBody cfg c k n (p ++ [b]) t := by
  have payload := h.state_of_more more
  have count := h.count more
  have le : s.ubx.cnt.toNat ≤ s.ubx.len.toNat := by rw [h.len_eq]; omega
  have exist : payloadIndex s < s.ubxCap := by
    rw [payloadIndex, BitVec.toNat_sub_of_le le, State.ubxCap, h.cfg_eq, h.len_eq]
    omega
  have longer : (p ++ [b]).length = p.length + 1 := by simp
  by_cases last : s.ubx.cnt = 1#16
  · have row := (exec_uPayloadLast_eq_next (b := b)).2 ⟨⟨payload, last⟩, exist, rfl⟩
    have full : ¬(p ++ [b]).length < n.toNat := by
      rw [last] at count
      simp only [BitVec.toNat_ofNat] at count
      omega
    refine ⟨_, ubxStep_of_row rfl row, rfl, h.cfg_eq, h.cls_eq, h.id_eq, h.len_eq,
      exec_ubx_tookIn rfl row (fun _ => le) (fun _ => h.took) ?_, ?_, fun left => absurd left full⟩
    · exact (by decide : 2 ≤ UState.cksumA.toNat)
    · rw [if_neg full]
      rfl
  · have two : 2 ≤ s.ubx.cnt.toNat := by bv_omega
    have row := (exec_uPayloadByte_eq_next (b := b)).2 ⟨⟨payload, two⟩, exist, rfl⟩
    refine ⟨_, ubxStep_of_row rfl row, rfl, h.cfg_eq, h.cls_eq, h.id_eq, h.len_eq,
      exec_ubx_tookIn rfl row (fun _ => le) (fun _ => h.took) ?_, ?_, fun _ => ?_⟩
    · show 2 ≤ s.ubx.state.toNat
      rw [payload]
      decide
    · rw [if_pos (by omega)]
      exact payload
    · show (p ++ [b]).length + (s.ubx.cnt - 1#16).toNat = n.toNat
      rw [longer]
      bv_omega

/-- The framer waits for the last byte of a frame whose first checksum byte was `x`. -/
structure AtLastByte (c k : Byte) (n : Half) (p : List Byte) (x : Byte) (s : State) : Prop where
  state_eq : s.ubx.state = UState.cksumB
  cls_eq : s.ubx.cls = c
  id_eq : s.ubx.id = k
  len_eq : s.ubx.len = n
  expA_eq : s.ubx.expA = x
  took : s.ubx.TookIn p

/-- The first checksum byte (R162). -/
theorem InBody.step_cksumA (h : InBody cfg c k n p s) (full : p.length = n.toNat) (x : Byte) :
    ∃ t, ubxStep x s = .next t ∧ t.evt = .none ∧ AtLastByte c k n p x t := by
  have cksumA := h.state_of_full full
  have row := (exec_uCksumA_eq_next (b := x)).2 ⟨cksumA, rfl⟩
  exact ⟨_, ubxStep_of_row rfl row, rfl, rfl, h.cls_eq, h.id_eq, h.len_eq, rfl,
    (tookIn_iff_of_trailer (.inr rfl)).2 ((tookIn_iff_of_trailer (.inl cksumA)).1 h.took)⟩

/-- The last byte: the frame when both checksum bytes are right (R163), else the error (R164). -/
theorem AtLastByte.step {x : Byte} (h : AtLastByte c k n p x s) (y : Byte) :
    ∃ t, ubxStep y s = .next t ∧ t.ubx.state = UState.idle ∧
      t.evt = if uck (ubxHeader c k n ++ p) = (x, y) then .ubxFrame c k n (p.map some)
        else .ubxError c k n .badChecksum := by
  obtain ⟨len, ⟨cells, -⟩, sums⟩ := (tookIn_iff_of_trailer (.inr h.state_eq)).1 h.took
  rw [h.cls_eq, h.id_eq, h.len_eq] at sums
  by_cases valid : uck (ubxHeader c k n ++ p) = (x, y)
  · obtain ⟨first, second⟩ := Prod.mk.inj (sums.trans valid)
    have row := (exec_uCksumBMatch_eq_next (b := y)).2 ⟨⟨h.state_eq, h.expA_eq.trans first.symm, second.symm⟩, rfl⟩
    refine ⟨_, ubxStep_of_row rfl row, rfl, ?_⟩
    rw [if_pos valid, ← cells, len, ← h.cls_eq, ← h.id_eq, ← h.len_eq]
    rfl
  · have wrong : s.ubx.expA ≠ s.ubx.ckA ∨ y ≠ s.ubx.ckB := by
      rw [h.expA_eq, ← not_and_or]
      rintro ⟨first, second⟩
      exact valid (sums.symm.trans (by rw [first, second]))
    have row := (exec_uCksumBMismatch_eq_next (b := y)).2 ⟨⟨h.state_eq, wrong⟩, rfl⟩
    refine ⟨_, ubxStep_of_row rfl row, rfl, ?_⟩
    rw [if_neg valid, ← h.cls_eq, ← h.id_eq, ← h.len_eq]
    rfl

/-! ### The stretches of a UBX frame -/

variable {f : Byte → State → Result} {P : State → Prop}

/-- Payload bytes extend the payload and report nothing. -/
theorem Follows.feed_body (follows : Follows ubxStep f UbxBusy P) (here : P s) (body : InBody cfg c k n p s)
    (fits : n.toNat ≤ cfg.ubxCap.val) {q : List Byte} (room : p.length + q.length ≤ n.toNat) :
    ∃ t, FeedsQuietly f q s t ∧ P t ∧ InBody cfg c k n (p ++ q) t := by
  induction q generalizing p s with
  | nil => exact ⟨s, feedsQuietly_nil, here, by simpa using body⟩
  | cons b q ih =>
    rw [List.length_cons] at room
    obtain ⟨u, step, quiet, body_u⟩ := body.step_payload fits (by omega) b
    obtain ⟨first, here_u⟩ := follows here step body_u.busy
    obtain ⟨t, rest, here_t, body_t⟩ :=
      ih here_u body_u (by rw [List.length_append, List.length_singleton]; omega)
    exact ⟨t, feedsQuietly_cons first quiet rest, here_t, by simpa using body_t⟩

/-- All of a frame after its first byte and but for its last. -/
theorem Follows.feed_to_last_byte (follows : Follows ubxStep f UbxBusy P) (here : P s)
    (second : s.ubx.state = UState.sync2) (c k : Byte) (fits : n.toNat ≤ s.cfg.ubxCap.val) (whole : p.length = n.toNat)
    (x : Byte) :
    ∃ t, FeedsQuietly f (sync2 :: ubxHeader c k n ++ p ++ [x]) s t ∧ P t ∧ AtLastByte c k n p x t := by
  obtain ⟨header, here1⟩ := follows.feed_header here second c k (n.extractLsb' 0 8)
  obtain ⟨t2, lenHi, quiet2, body2⟩ :=
    ubxStep_opens_body (s := headerTaken s c k (n.extractLsb' 0 8)) rfl (lenWith_headerTaken s c k n)
      (headerTaken_tookIn s c k _) fits
  rw [headerTaken_cfg, headerTaken_cls, headerTaken_id] at body2
  obtain ⟨lenHi, here2⟩ := follows here1 lenHi body2.busy
  obtain ⟨t3, payload, here3, body3⟩ := follows.feed_body here2 body2 fits (q := p) (by simp [whole])
  obtain ⟨t4, cksumA, quiet4, last⟩ := body3.step_cksumA (by simpa using whole) x
  obtain ⟨cksumA, here4⟩ := follows here3 cksumA (ubxBusy_of_code last.state_eq (by decide))
  have fed := ((header.append (feedsQuietly_single lenHi quiet2)).append payload).append
    (feedsQuietly_single cksumA quiet4)
  exact ⟨t4, fed, here4, by simpa using last⟩

end

/-! ### How a UBX frame ends -/

section
variable {s : State} {c k : Byte} {p : List Byte}

theorem toNat_ofNat_length (short : p.length ≤ 65535) : (BitVec.ofNat 16 p.length).toNat = p.length := by
  rw [BitVec.toNat_ofNat]
  omega

/-- The state in which R150 leaves the framer. -/
def syncStarted (s : State) : State := (s.setUbx { s.ubx with state := UState.sync2 }).emit .none

theorem ubxStep_sync1 (idle : s.ubx.state = UState.idle) : ubxStep sync1 s = .next (syncStarted s) :=
  ubxStep_of_row rfl (exec_uIdleSync1_eq_next.2 ⟨idle, rfl⟩)

/-- A frame that fits: the frame or the bad-checksum error, on the last byte. -/
theorem ubxFeed_frame (idle : s.ubx.state = UState.idle) (short : p.length ≤ 65535)
    (fits : p.length ≤ s.cfg.ubxCap.val) (c k x y : Byte) :
    ∃ t, ubxFeed (ubxWire c k p x y) s = some (List.replicate (p.length + 7) Event.none ++
        [if uck (ubxHeader c k (BitVec.ofNat 16 p.length) ++ p) = (x, y)
          then .ubxFrame c k (BitVec.ofNat 16 p.length) (p.map some)
          else .ubxError c k (BitVec.ofNat 16 p.length) .badChecksum], t) ∧ t.ubx.state = UState.idle := by
  have len := toNat_ofNat_length short
  obtain ⟨t, body, -, last⟩ := ubxStep_follows_itself.feed_to_last_byte (s := syncStarted s) trivial rfl c k
    (by rw [len]; exact fits) len.symm x
  obtain ⟨u, end_step, idle_after, event⟩ := last.step y
  have fed := (feedsQuietly_cons (ubxStep_sync1 idle) rfl body).then_byte end_step
  rw [event] at fed
  exact ⟨u, by simpa [ubxFeed, ubxWire, ubxHeader, Nat.add_assoc] using fed, idle_after⟩

/-- A declared length above the capacity: the overflow on the length's high byte. -/
theorem ubxFeed_overflow (idle : s.ubx.state = UState.idle) (short : p.length ≤ 65535)
    (long : s.cfg.ubxCap.val < p.length) (c k : Byte) :
    ∃ t, ubxFeed ([sync1, sync2] ++ ubxHeader c k (BitVec.ofNat 16 p.length)) s =
        some (List.replicate 5 Event.none ++
          [.ubxError c k (BitVec.ofNat 16 s.cfg.ubxCap.val) .bufferOverflow], t) ∧ t.ubx.state = UState.idle := by
  have len := toNat_ofNat_length short
  have taken := lenWith_headerTaken (syncStarted s) c k (BitVec.ofNat 16 p.length)
  obtain ⟨header, -⟩ := ubxStep_follows_itself.feed_header (s := syncStarted s) trivial rfl c k
    ((BitVec.ofNat 16 p.length).extractLsb' 0 8)
  have row := exec_uLenHiOverflow_eq_next.2 ⟨⟨rfl, by rw [taken, len]; exact long⟩, rfl⟩
  have fed := (feedsQuietly_cons (ubxStep_sync1 idle) rfl header).then_byte (ubxStep_of_row rfl row)
  exact ⟨_, fed, rfl⟩

/-- A valid UBX frame that fits is delivered by the block on its last byte. -/
theorem blockFeed_ubx_frame {x y : Byte} (idle : AllIdle s) (fits : p.length ≤ s.cfg.ubxCap.val)
    (valid : uck (ubxHeader c k (BitVec.ofNat 16 p.length) ++ p) = (x, y)) :
    ∃ t, blockFeed (ubxWire c k p x y) s = some (List.replicate (p.length + 7) Event.none ++
        [.ubxFrame c k (BitVec.ofNat 16 p.length) (p.map some)], t) ∧ AllIdle t := by
  have len := toNat_ofNat_length (fits.trans (Nat.le_of_lt_succ s.cfg.ubxCap.isLt))
  have here : InUbx (openedUbx s) := ⟨rfl, idle.2.1⟩
  obtain ⟨t, body, fwd, last⟩ := byteStep_follows_ubxStep.feed_to_last_byte here rfl c k
    (by rw [len]; exact fits) len.symm x
  obtain ⟨u, end_step, idle_after, event⟩ := last.step y
  rw [if_pos valid] at event
  obtain ⟨ends, all_idle⟩ := byteStep_ends_ubx fwd end_step idle_after
  have fed := (feedsQuietly_cons (byteStep_sync1_of_allIdle idle) rfl body).then_byte ends
  rw [State.gotoD_evt, event] at fed
  exact ⟨_, by simpa [blockFeed, ubxWire, ubxHeader, Nat.add_assoc] using fed, all_idle⟩

end

/-- Settles O56: a frame that fits, and a declared length that does not. -/
theorem ubxFrameRecognised : Obligations.UbxFrameRecognised :=
  fun _ c k _ idle short => ⟨fun x y fits => ubxFeed_frame idle short fits c k x y,
    fun long => ubxFeed_overflow idle short long c k⟩

/-- Settles O57: inside a frame the block does what the framer does, and ends it with the framer. -/
theorem blockDeliversValidFrames : Obligations.BlockDeliversValidFrames :=
  fun _ idle => ⟨fun _ _ _ _ _ no_star room digit1 digit2 valid =>
      blockFeed_nmea_frame idle no_star room digit1 digit2 valid,
    fun _ _ _ _ _ fits valid => blockFeed_ubx_frame idle fits valid⟩

end Sys2Proof.Machine
end

section
/-! PROOF. What is left over from earlier frames has no influence (70_reset_and_hazards.md R242). A place of the block
says how far it is in a frame and what the frame's bytes were; every byte leads from a place to one event and one place,
whatever the other registers and the cells hold. -/

namespace Sys2Proof.Machine

/-! ### Places -/

/-- The framer is in the header of a frame, in state `code`; no payload byte was taken in. -/
structure InHeader (cfg : Config) (code : BitVec 4) (s : State) : Prop where
  cfg_eq : s.cfg = cfg
  state_eq : s.ubx.state = code
  took : s.ubx.TookIn []

/-- Where the block is between two bytes, with what it knows of the frame it is in. -/
inductive Place
  | idle
  | collect (p : List Byte)
  | high (p : List Byte)
  | low (p : List Byte) (v : BitVec 4)
  | sync
  | cls
  | id (c : Byte)
  | lenLo (c k : Byte)
  | lenHi (c k : Byte) (m : Half)
  | body (c k : Byte) (n : Half) (p : List Byte)
  | last (c k : Byte) (n : Half) (p : List Byte) (x : Byte)

/-- The block with these capacities is at the place. -/
def Place.At (cfg : Config) (s : State) : Place → Prop
  | .idle => s.cfg = cfg ∧ AllIdle s
  | .collect p => InNmea s ∧ InFrame cfg p NState.collect s
  | .high p => InNmea s ∧ InFrame cfg p NState.cksumHi s
  | .low p v => InNmea s ∧ InFrame cfg p NState.cksumLo s ∧ s.nmea.exp = v ++ 0#4
  | .sync => InUbx s ∧ s.cfg = cfg ∧ s.ubx.state = UState.sync2
  | .cls => InUbx s ∧ InHeader cfg UState.cls s
  | .id c => InUbx s ∧ InHeader cfg UState.id s ∧ s.ubx.cls = c
  | .lenLo c k => InUbx s ∧ InHeader cfg UState.lenLo s ∧ s.ubx.cls = c ∧ s.ubx.id = k
  | .lenHi c k m => InUbx s ∧ InHeader cfg UState.lenHi s ∧ s.ubx.cls = c ∧ s.ubx.id = k ∧ s.ubx.len = m
  | .body c k n p => InUbx s ∧ InBody cfg c k n p s ∧ p.length ≤ n.toNat ∧ n.toNat ≤ cfg.ubxCap.val
  | .last c k n p x => InUbx s ∧ s.cfg = cfg ∧ AtLastByte c k n p x s

/-- From the place `d` the byte `b` makes the event `e` and leads to the place `d'`. -/
def Leads (cfg : Config) (b : Byte) (d : Place) (e : Event) (d' : Place) : Prop :=
  ∀ {s : State}, d.At cfg s → ∃ t, byteStep b s = .next t ∧ t.evt = e ∧ d'.At cfg t

section
variable {cfg : Config} {s t : State} {b : Byte}

theorem cfg_of_byteStep (h : byteStep b s = .next t) : t.cfg = s.cfg := by
  obtain rfl | nmea | ubx := byteStep_cases h
  · rfl
  · exact nmea.cfg_eq
  · exact ubx.cfg_eq

/-- The NMEA framer's last byte of a frame leads to the idle place. -/
theorem InNmea.ends_idle (here : InNmea s) (cfg_eq : s.cfg = cfg) (step : nmeaStep b s = .next t)
    (done : t.nmea.state = NState.idle) :
    ∃ u, byteStep b s = .next u ∧ u.evt = t.evt ∧ Place.idle.At cfg u := by
  obtain ⟨ends, idle⟩ := byteStep_ends_nmea here step done
  exact ⟨_, ends, rfl, (cfg_of_byteStep ends).trans cfg_eq, idle⟩

/-- The UBX framer's last byte of a frame leads to the idle place. -/
theorem InUbx.ends_idle (here : InUbx s) (cfg_eq : s.cfg = cfg) (step : ubxStep b s = .next t)
    (done : t.ubx.state = UState.idle) :
    ∃ u, byteStep b s = .next u ∧ u.evt = t.evt ∧ Place.idle.At cfg u := by
  obtain ⟨ends, idle⟩ := byteStep_ends_ubx here step done
  exact ⟨_, ends, rfl, (cfg_of_byteStep ends).trans cfg_eq, idle⟩

/-! ### Where a byte leads -/

theorem exists_leads_idle (b : Byte) : ∃ e d, Leads cfg b .idle e d := by
  by_cases start : b = dollar
  · refine ⟨.none, .collect [], fun {s} ⟨cfg_eq, idle⟩ => ?_⟩
    obtain ⟨frame, here⟩ := openedNmea_inFrame idle
    rw [start]
    exact ⟨_, byteStep_dollar_of_allIdle idle, rfl, here, cfg_eq ▸ frame⟩
  by_cases sync : b = sync1
  · refine ⟨.none, .sync, fun {s} ⟨cfg_eq, idle⟩ => ?_⟩
    have ⟨_, nmea, _⟩ := idle
    rw [sync]
    exact ⟨_, byteStep_sync1_of_allIdle idle, rfl, ⟨rfl, nmea⟩, cfg_eq, rfl⟩
  · exact ⟨.none, .idle, fun ⟨cfg_eq, idle⟩ =>
      ⟨_, byteStep_other_of_allIdle idle start sync, rfl, cfg_eq, idle⟩⟩

theorem exists_leads_collect (p : List Byte) (b : Byte) : ∃ e d, Leads cfg b (.collect p) e d := by
  by_cases stop : b = star
  · refine ⟨.none, .high p, fun ⟨here, frame⟩ => ?_⟩
    obtain ⟨t, step, quiet, after⟩ := frame.step_star
    obtain ⟨first, there⟩ := byteStep_follows_nmeaStep here step (after.busy (by decide))
    exact ⟨t, stop ▸ first, quiet, there, after⟩
  by_cases room : p.length < cfg.nmeaCap.val
  · refine ⟨.none, .collect (p ++ [b]), fun ⟨here, frame⟩ => ?_⟩
    obtain ⟨t, step, quiet, after⟩ := frame.step_payload stop room
    obtain ⟨first, there⟩ := byteStep_follows_nmeaStep here step (after.busy (by decide))
    exact ⟨t, first, quiet, there, after⟩
  · refine ⟨.nmeaOverflow (BitVec.ofNat 16 cfg.nmeaCap.val), .idle, fun ⟨here, frame⟩ => ?_⟩
    have full := le_antisymm frame.fits (not_lt.1 room)
    exact here.ends_idle frame.cfg_eq (frame.step_overflow stop full) rfl

theorem exists_leads_high (p : List Byte) (b : Byte) : ∃ e d, Leads cfg b (.high p) e d := by
  cases digit : hexval b with
  | none =>
    refine ⟨.none, .idle, fun ⟨here, frame⟩ => ?_⟩
    exact here.ends_idle frame.cfg_eq (frame.step_high_bad digit) rfl
  | some v =>
    refine ⟨.none, .low p v, fun ⟨here, frame⟩ => ?_⟩
    obtain ⟨t, step, quiet, after, high⟩ := frame.step_high_digit digit
    obtain ⟨first, there⟩ := byteStep_follows_nmeaStep here step (after.busy (by decide))
    exact ⟨t, first, quiet, there, after, high⟩

theorem exists_leads_low (p : List Byte) (v : BitVec 4) (b : Byte) : ∃ e d, Leads cfg b (.low p v) e d := by
  cases digit : hexval b with
  | none =>
    refine ⟨.none, .idle, fun ⟨here, frame, _⟩ => ?_⟩
    exact here.ends_idle frame.cfg_eq (frame.step_low_bad digit) rfl
  | some w =>
    refine ⟨if v ++ w = nck p then .nmeaFrame (BitVec.ofNat 16 p.length) (p.map some)
      else .nmeaChecksumError (BitVec.ofNat 16 p.length) (p.map some), .idle, fun ⟨here, frame, high⟩ => ?_⟩
    exact here.ends_idle frame.cfg_eq (frame.step_low_digit high digit) rfl

/-- A row of the UBX framer that stays inside the frame. -/
theorem InUbx.goes_on {i : Instr} {code : BitVec 4} (here : InUbx s) (unit : i.unit = .ubx)
    (row : exec i s = .next t) (state : t.ubx.state = code) (inside : code ≠ UState.idle) :
    byteStep i.byte s = .next t ∧ InUbx t :=
  byteStep_follows_ubxStep here (ubxStep_of_row unit row) (ubxBusy_of_code state inside)

/-- A row that takes in a header byte. -/
theorem InHeader.next {i : Instr} {code next : BitVec 4} (h : InHeader cfg code s) (unit : i.unit = .ubx)
    (row : exec i s = .next t) (no_payload : code ≠ UState.payload ∧ Instr.payloadAfter i [] = [])
    (state : t.ubx.state = next) (past : 2 ≤ next.toNat) : InHeader cfg next t := by
  obtain ⟨not_payload, empty⟩ := no_payload
  refine ⟨?_, state, ?_⟩
  · rw [exec_ubx_frame unit row]
    exact h.cfg_eq
  · rw [← empty]
    exact exec_ubx_tookIn unit row (fun payload => absurd (h.state_eq.symm.trans payload) not_payload)
      (fun _ => h.took) (state ▸ past)

theorem exists_leads_sync (b : Byte) : ∃ e d, Leads cfg b .sync e d := by
  by_cases ok : b = sync2
  · refine ⟨.none, .cls, fun ⟨here, cfg_eq, second⟩ => ?_⟩
    have row := exec_uSync2Ok_eq_next.2 ⟨second, rfl⟩
    obtain ⟨first, there⟩ := here.goes_on (code := UState.cls) rfl row rfl (by decide)
    exact ⟨_, ok ▸ first, rfl, there, cfg_eq, rfl, (tookIn_iff_of_cls rfl).2 ⟨rfl, rfl⟩⟩
  · refine ⟨.none, .idle, fun ⟨here, cfg_eq, second⟩ => ?_⟩
    have row := exec_uSync2Fail_eq_next.2 ⟨⟨ok, second⟩, rfl⟩
    exact here.ends_idle cfg_eq (ubxStep_of_row rfl row) rfl

theorem leads_cls (b : Byte) : Leads cfg b .cls .none (.id b) := by
  intro s ⟨here, header⟩
  have row := (exec_uClass_eq_next (b := b)).2 ⟨header.state_eq, rfl⟩
  obtain ⟨first, there⟩ := here.goes_on (code := UState.id) rfl row rfl (by decide)
  exact ⟨_, first, rfl, there, header.next rfl row ⟨by decide, rfl⟩ rfl (by decide), rfl⟩

theorem leads_id (c b : Byte) : Leads cfg b (.id c) .none (.lenLo c b) := by
  intro s ⟨here, header, cls⟩
  have row := (exec_uId_eq_next (b := b)).2 ⟨header.state_eq, rfl⟩
  obtain ⟨first, there⟩ := here.goes_on (code := UState.lenLo) rfl row rfl (by decide)
  exact ⟨_, first, rfl, there, header.next rfl row ⟨by decide, rfl⟩ rfl (by decide), cls, rfl⟩

theorem leads_lenLo (c k b : Byte) : Leads cfg b (.lenLo c k) .none (.lenHi c k (b.setWidth 16)) := by
  intro s ⟨here, header, cls, id⟩
  have row := (exec_uLenLo_eq_next (b := b)).2 ⟨header.state_eq, rfl⟩
  obtain ⟨first, there⟩ := here.goes_on (code := UState.lenHi) rfl row rfl (by decide)
  exact ⟨_, first, rfl, there, header.next rfl row ⟨by decide, rfl⟩ rfl (by decide), cls, id, rfl⟩

theorem exists_leads_lenHi (c k : Byte) (m : Half) (b : Byte) : ∃ e d, Leads cfg b (.lenHi c k m) e d := by
  have assembled {s : State} (len : s.ubx.len = m) : lenWith s b = b ++ m.extractLsb' 0 8 := by rw [← len]; rfl
  by_cases fits : (b ++ m.extractLsb' 0 8 : Half).toNat ≤ cfg.ubxCap.val
  · refine ⟨.none, .body c k (b ++ m.extractLsb' 0 8) [], fun {s} ⟨here, header, cls, id, len⟩ => ?_⟩
    obtain ⟨t, step, quiet, body⟩ := ubxStep_opens_body header.state_eq (assembled len) header.took
      (by rw [State.ubxCap, header.cfg_eq]; exact fits)
    obtain ⟨first, there⟩ := byteStep_follows_ubxStep here step body.busy
    rw [header.cfg_eq, cls, id] at body
    exact ⟨t, first, quiet, there, body, Nat.zero_le _, fits⟩
  · refine ⟨.ubxError c k (BitVec.ofNat 16 cfg.ubxCap.val) .bufferOverflow, .idle,
      fun {s} ⟨here, header, cls, id, len⟩ => ?_⟩
    have long : s.ubxCap < (lenWith s b).toNat := by
      rw [assembled len, State.ubxCap, header.cfg_eq]
      exact not_le.1 fits
    have row := exec_uLenHiOverflow_eq_next.2 ⟨⟨header.state_eq, long⟩, rfl⟩
    obtain ⟨u, ends, event, there⟩ := here.ends_idle header.cfg_eq (ubxStep_of_row rfl row) rfl
    refine ⟨u, ends, ?_, there⟩
    rw [event, ← cls, ← id, ← header.cfg_eq]
    rfl

theorem exists_leads_body (c k : Byte) (n : Half) (p : List Byte) (b : Byte) :
    ∃ e d, Leads cfg b (.body c k n p) e d := by
  by_cases full : p.length = n.toNat
  · refine ⟨.none, .last c k n p b, fun {s} ⟨here, body, _⟩ => ?_⟩
    obtain ⟨t, step, quiet, last⟩ := body.step_cksumA full b
    obtain ⟨first, there⟩ := byteStep_follows_ubxStep here step (ubxBusy_of_code last.state_eq (by decide))
    exact ⟨t, first, quiet, there, (cfg_of_byteStep first).trans body.cfg_eq, last⟩
  · refine ⟨.none, .body c k n (p ++ [b]), fun {s} ⟨here, body, within, fits⟩ => ?_⟩
    have more := lt_of_le_of_ne within full
    obtain ⟨t, step, quiet, after⟩ := body.step_payload fits more b
    obtain ⟨first, there⟩ := byteStep_follows_ubxStep here step after.busy
    exact ⟨t, first, quiet, there, after, by simpa using more, fits⟩

theorem exists_leads_last (c k : Byte) (n : Half) (p : List Byte) (x b : Byte) :
    ∃ e d, Leads cfg b (.last c k n p x) e d := by
  refine ⟨if uck (ubxHeader c k n ++ p) = (x, b) then .ubxFrame c k n (p.map some)
    else .ubxError c k n .badChecksum, .idle, fun ⟨here, cfg_eq, last⟩ => ?_⟩
  obtain ⟨t, step, done, event⟩ := last.step b
  rw [← event]
  exact here.ends_idle cfg_eq step done

/-- Every byte leads from every place to one event and one place. -/
theorem exists_leads (d : Place) (b : Byte) : ∃ e d', Leads cfg b d e d' := by
  cases d with
  | idle => exact exists_leads_idle b
  | collect p => exact exists_leads_collect p b
  | high p => exact exists_leads_high p b
  | low p v => exact exists_leads_low p v b
  | sync => exact exists_leads_sync b
  | cls => exact ⟨_, _, leads_cls b⟩
  | id c => exact ⟨_, _, leads_id c b⟩
  | lenLo c k => exact ⟨_, _, leads_lenLo c k b⟩
  | lenHi c k m => exact exists_leads_lenHi c k m b
  | body c k n p => exact exists_leads_body c k n p b
  | last c k n p x => exact exists_leads_last c k n p x b

/-- The place of the block determines the events of every byte sequence, and no byte stops it. -/
theorem place_determines_events (d : Place) (l : List Byte) :
    ∃ es, ∀ s, d.At cfg s → ∃ u, blockFeed l s = some (es, u) := by
  induction l generalizing d with
  | nil => exact ⟨[], fun s _ => ⟨s, rfl⟩⟩
  | cons b l ih =>
    obtain ⟨e, d', leads⟩ := exists_leads (cfg := cfg) d b
    obtain ⟨es, rest⟩ := ih d'
    refine ⟨e :: es, fun s here => ?_⟩
    obtain ⟨t, first, rfl, there⟩ := leads here
    obtain ⟨u, fed⟩ := rest t there
    exact ⟨u, feedBy_cons_eq_some.2 ⟨t, es, first, fed, rfl⟩⟩

end

/-- Settles O60: both states are at the idle place. -/
theorem dataRegistersUnobservableWhenIdle : Obligations.DataRegistersUnobservableWhenIdle := by
  intro s t l idle_s idle_t same
  obtain ⟨es, feed⟩ := place_determines_events (cfg := t.cfg) .idle l
  obtain ⟨u, fed_s⟩ := feed s ⟨same, idle_s⟩
  obtain ⟨v, fed_t⟩ := feed t ⟨rfl, idle_t⟩
  exact ⟨es, u, v, fed_s, fed_t⟩

end Sys2Proof.Machine
end
